-- ==== Sys2Proof/Word.lean ====
section
/-! DEFINITION. The value types of the block (00_scope R14, R15): bytes, 32-bit words, u64 scalars, buffers and
records. Every value is unsigned; nothing is sign-extended. -/

namespace Sys2Proof

/-- A byte, u8 (00_scope R15). -/
abbrev Byte := BitVec 8

/-- A u32: a command or response word, a CRC, a device identifier (00_scope R14). -/
abbrev U32 := BitVec 32

/-- A u64: a scalar operand slot or a record slot (30_encoding R92, 43_entry_codec R190). -/
abbrev U64 := BitVec 64

/-- A buffer: a finite sequence of bytes, index 0 first (00_scope R15). -/
abbrev Buffer := List Byte

/-- A record: one u64 slot per declared field, in schema order (43_entry_codec R190). -/
abbrev Record := List U64

/-- `zeros(n)` of 00_scope R15. -/
abbrev zeros (n : Nat) : Buffer := List.replicate n 0

end Sys2Proof
end

