-- ==== Sys2Proof/Syntax.lean ====
section
/-! DEFINITION. The twelve commands of spec/opcode_table.json (30_encoding R98) and their two one-bit command-word
fields. The operands stand in the operand slots (30_encoding R92), not in the instruction. -/

namespace Sys2Proof

/-- The device variant, `CMD.VAR` (00_scope R9, 30_encoding R90): a closed two-way choice. -/
inductive Variant
  | v0
  | v1
  deriving DecidableEq, Repr

/-- The transport direction, `CMD.DIR` (30_encoding R90, 45_chunk_splitter R267): 0 = read, 1 = write. -/
inductive Direction
  | read
  | write
  deriving DecidableEq, Repr

/-- One constructor per row of spec/opcode_table.json (30_encoding R98). -/
inductive Instr
  | setmode
  | getmode
  | fieldGet
  | fieldSet
  | crc32
  | entryDecode (v : Variant)
  | entryEncode (v : Variant)
  | unpack
  | pack
  | checkValid
  | split
  | msghdr (d : Direction)
  deriving DecidableEq, Repr

end Sys2Proof
end

