-- ==== Sys2Proof/Config.lean ====
section
/-! DEFINITION. The implementation parameters of 00_scope R8: the fixed ones as constants, the OPEN ones as the fields
of `Config`, which the model takes as an argument (10_state R32). A `Config` is plain data and stands in `State.cfg`;
no command reads or writes it as data. -/

namespace Sys2Proof

namespace Config

/-- P1 `MAX_FIELD_WIDTH` (00_scope R8). -/
def maxFieldWidth : Nat := 64
/-- P2 `CRC_POLY` (00_scope R8, 42_crc32 R170). -/
def crcPoly : U32 := 0x04C11DB7
/-- P2 `CRC_SEED` (00_scope R8, 42_crc32 R170). -/
def crcSeed : U32 := 0xFFFFFFFF
/-- P3 `HDR_BYTES` (00_scope R8): 8 bytes of fields, then 4 bytes of CRC. -/
def hdrBytes : Nat := 12
/-- P4 `DEVID_BYTES` (00_scope R8). -/
def devidBytes : Nat := 4
/-- P5 `ADDR_BITS` (00_scope R8): the width of a device word address. -/
def addrBits : Nat := 21
/-- P8 `TERMINAL_BLKID` (00_scope R8, decision D20). -/
def terminalBlkId : Nat := 0

end Config

/-- An inclusive bit range `[msb, lsb]` (00_scope R10), the form of P6 and P7. -/
structure BitRange where
  msb : Nat
  lsb : Nat
  deriving DecidableEq, Repr

/-- A Field Descriptor `(name, msb, lsb)` (00_scope R10). -/
structure FieldDesc where
  name : String
  msb : Nat
  lsb : Nat
  deriving DecidableEq, Repr

/-- The pair `(size(v), schema(v))` of a table that is present for a variant (00_scope R11, R12). -/
structure TableForm where
  size : Nat
  schema : List FieldDesc
  deriving DecidableEq, Repr

/-- A table descriptor of `CATALOG` (00_scope R12). `none` is "absent" for that variant. -/
structure TableDesc where
  name : String
  blockId : Nat
  maxCount : Nat
  formV0 : Option TableForm
  formV1 : Option TableForm
  deriving DecidableEq, Repr

/-- The role names of 00_scope R13. -/
inductive Role
  | schedule
  | scheduleEntryPoints
  | scheduleParams
  | scheduleEntryPointsParams
  | l2Policing
  | vlanLookup
  | l2Forwarding
  | macConfig
  | l2ForwardingParams
  | generalParams
  | xmiiParams
  | vlForwardingParams
  deriving DecidableEq, Repr

/-- P11 `ROLE` (00_scope R8, R13): the `CATALOG` index of the table each role names. -/
structure RoleMap where
  schedule : Nat
  scheduleEntryPoints : Nat
  scheduleParams : Nat
  scheduleEntryPointsParams : Nat
  l2Policing : Nat
  vlanLookup : Nat
  l2Forwarding : Nat
  macConfig : Nat
  l2ForwardingParams : Nat
  generalParams : Nat
  xmiiParams : Nat
  vlForwardingParams : Nat
  deriving DecidableEq, Repr

/-- One entry of P12 `REQUIRED_COUNTS` (00_scope R8): `MIN k` or `EXACT k`. -/
inductive CountReq
  | min (k : Nat)
  | exact (k : Nat)
  deriving DecidableEq, Repr

/-- P12 `REQUIRED_COUNTS`: one requirement per required-table role (44_container_framer R241, SUB 4 to 10). -/
structure RequiredCounts where
  l2Policing : CountReq
  vlanLookup : CountReq
  l2Forwarding : CountReq
  macConfig : CountReq
  l2ForwardingParams : CountReq
  generalParams : CountReq
  xmiiParams : CountReq
  deriving DecidableEq, Repr

/-- P13 `PARTITION_FIELDS` (00_scope R8, 44_container_framer R242): slot indices per role and variant. Held as lists in
which an index may come again: DESIGN CHOICE (log 14). -/
structure PartitionFields where
  l2V0 : List Nat
  l2V1 : List Nat
  vlV0 : List Nat
  vlV1 : List Nat
  deriving DecidableEq, Repr

/-- A validation rule (44_container_framer R240). -/
inductive ValidationRule
  | impliesNonempty (a b : Role)
  | impliesExact (a b : Role) (k : Nat)
  | countMin (a : Role) (k : Nat)
  | countExact (a : Role) (k : Nat)
  | memoryBudget
  deriving DecidableEq, Repr

/-- One of the four identifiers of P9 and the variant it selects (00_scope R8, R9). -/
structure DeviceId where
  ident : U32
  variant : Variant
  deriving DecidableEq, Repr

/-- P9 `DEVICE_IDS` (00_scope R8): four 32-bit identifiers, each mapped to a variant. -/
structure DeviceIds where
  d0 : DeviceId
  d1 : DeviceId
  d2 : DeviceId
  d3 : DeviceId
  deriving DecidableEq, Repr

/-- The OPEN parameters of 00_scope R8. -/
structure Config where
  /-- P6 `HDR_BLKID`. -/
  hdrBlkId : BitRange
  /-- P7 `HDR_LEN`. -/
  hdrLen : BitRange
  /-- P9 `DEVICE_IDS`. -/
  deviceIds : DeviceIds
  /-- P10 `CATALOG`, in the fixed canonical order. -/
  catalog : List TableDesc
  /-- P11 `ROLE`. -/
  roles : RoleMap
  /-- P12 `REQUIRED_COUNTS`. -/
  required : RequiredCounts
  /-- P13 `PARTITION_FIELDS`. -/
  partitions : PartitionFields
  /-- P14 `FRAME_MEMORY_BUDGET(V0)`. -/
  budgetV0 : Nat
  /-- P14 `FRAME_MEMORY_BUDGET(V1)`. -/
  budgetV1 : Nat
  /-- P15 `EXTRA_RULES`, default empty. -/
  extraRules : List ValidationRule := []
  /-- P16 `MAX_BUF_BYTES`; `none` is unbounded, the default. -/
  maxBufBytes : Option Nat := none
  deriving DecidableEq, Repr

namespace Config

/-- Table `i` of VALCAT (95_test_vectors section 2.2): block id 0x20 + i, at most 4 entries, one 32-bit field. -/
def valcatTable (i : Nat) (name : String) : TableDesc :=
  { name := name
    blockId := 0x20 + i
    maxCount := 4
    formV0 := some ⟨4, [⟨"v", 31, 0⟩]⟩
    formV1 := some ⟨4, [⟨"v", 31, 0⟩]⟩ }

/-- The configuration of the model instance that `State.reset` describes: VALCAT, the one complete configuration the
spec writes out (95_test_vectors section 2.2). DESIGN CHOICE (log 1), unsafe: 00_scope R8 leaves P6, P7 and P9 to P14
OPEN, so no statement may rest on these values. -/
def atReset : Config :=
  { hdrBlkId := ⟨31, 24⟩
    hdrLen := ⟨55, 32⟩
    deviceIds := ⟨⟨0x9C00000E, .v0⟩, ⟨0x9E00030E, .v0⟩, ⟨0xAF00030E, .v1⟩, ⟨0xAE00030E, .v1⟩⟩
    catalog :=
      [ valcatTable 0 "SCHEDULE", valcatTable 1 "SCHEDULE_ENTRY_POINTS", valcatTable 2 "SCHEDULE_PARAMS",
        valcatTable 3 "SCHEDULE_ENTRY_POINTS_PARAMS", valcatTable 4 "L2_POLICING", valcatTable 5 "VLAN_LOOKUP",
        valcatTable 6 "L2_FORWARDING", valcatTable 7 "MAC_CONFIG", valcatTable 8 "L2_FORWARDING_PARAMS",
        valcatTable 9 "GENERAL_PARAMS", valcatTable 10 "XMII_PARAMS", valcatTable 11 "VL_FORWARDING_PARAMS" ]
    roles := ⟨0, 1, 2, 3, 4, 5, 6, 7, 8, 9, 10, 11⟩
    required := ⟨.min 1, .min 1, .exact 2, .exact 2, .exact 1, .exact 1, .exact 1⟩
    partitions := ⟨[0], [0], [0], [0]⟩
    budgetV0 := 100
    budgetV1 := 200 }

end Config

end Sys2Proof
end

