-- ==== Sys2Proof/WellFormed.lean ====
section
/-! DEFINITION. The elementary well-formedness checks on what a configuration is made of (00_scope R10, R12), each a
Bool. `Machine/Catalog.lean` assembles them into `WF_CAT`. An `Instr` needs no check: its only fields are the two
closed types `Variant` and `Direction`, so every term of `Instr` is a legal command of 30_encoding R98. -/

namespace Sys2Proof

/-- `msb - lsb + 1` (00_scope R10). -/
def BitRange.width (r : BitRange) : Nat := r.msb - r.lsb + 1

/-- A range of the 8-byte header: `msb ≥ lsb`, width 1 to 64, msb below 64 (00_scope R12 item 6). -/
def BitRange.fitsHeader (r : BitRange) : Bool :=
  decide (r.lsb ≤ r.msb) && decide (r.width ≤ Config.maxFieldWidth) && decide (r.msb < 64)

/-- Two bit ranges share no bit (00_scope R12 items 4 and 6). -/
def BitRange.disjoint (r q : BitRange) : Bool := decide (r.msb < q.lsb) || decide (q.msb < r.lsb)

/-- The bit range of a field (00_scope R10). -/
def FieldDesc.range (f : FieldDesc) : BitRange := ⟨f.msb, f.lsb⟩

/-- `msb - lsb + 1` (00_scope R10). -/
def FieldDesc.width (f : FieldDesc) : Nat := f.range.width

/-- A field lies in an entry of `size` bytes: `msb ≥ lsb`, width at most 64, `msb < 8·size` (00_scope R12 item 3). -/
def FieldDesc.fits (f : FieldDesc) (size : Nat) : Bool :=
  decide (f.lsb ≤ f.msb) && decide (f.width ≤ Config.maxFieldWidth) && decide (f.msb < 8 * size)

/-- No two fields of a schema share a bit (00_scope R12 item 4). -/
def fieldsDisjoint : List FieldDesc → Bool
  | [] => true
  | f :: fs => fs.all (fun g => f.range.disjoint g.range) && fieldsDisjoint fs

/-- An entry size is a positive multiple of 4 (00_scope R12 item 2). -/
def TableForm.sizeOk (t : TableForm) : Bool := decide (0 < t.size) && decide (t.size % 4 = 0)

/-- A present form: its size, its fields and their disjointness (00_scope R12 items 2, 3 and 4). -/
def TableForm.wellFormed (t : TableForm) : Bool :=
  t.sizeOk && t.schema.all (fun f => f.fits t.size) && fieldsDisjoint t.schema

end Sys2Proof
end

