-- ==== Sys2Proof/Decode.lean ====
section
/-! DEFINITION. The 32-bit command word (30_encoding R90, R98): decoding, total on every word and rejecting by name
(R99), and after it the encoder written from the same table. -/

namespace Sys2Proof

/-- Why a command word is illegal (30_encoding R99), one name per condition on the word. -/
inductive Illegal
  /-- `OP` is not in the map of R98. -/
  | unmappedOp
  /-- `CMD[31:10] ≠ 0`. -/
  | reservedBits
  /-- `CMD.VAR = 1` and OP is not 0x30 or 0x31. -/
  | variantSet
  /-- `CMD.DIR = 1` and OP is not 0x51. -/
  | directionSet
  deriving DecidableEq, Repr

/-- `OP` = `CMD[7:0]` (30_encoding R90). -/
def cmdOp (w : U32) : Nat := w.toNat % 256

/-- `VAR` = `CMD[8]` (30_encoding R90): 0 = V0, 1 = V1. -/
def cmdVar (w : U32) : Variant := if w.getLsbD 8 then .v1 else .v0

/-- `DIR` = `CMD[9]` (30_encoding R90): 0 = read, 1 = write. -/
def cmdDir (w : U32) : Direction := if w.getLsbD 9 then .write else .read

/-- `CMD[31:10]`, reserved (30_encoding R90). -/
def cmdReserved (w : U32) : Nat := w.toNat / 1024

/-- The opcode map of 30_encoding R98. -/
def opcodeMap (op : Nat) (v : Variant) (d : Direction) : Option Instr :=
  match op with
  | 0x01 => some .setmode
  | 0x02 => some .getmode
  | 0x10 => some .fieldGet
  | 0x11 => some .fieldSet
  | 0x20 => some .crc32
  | 0x30 => some (.entryDecode v)
  | 0x31 => some (.entryEncode v)
  | 0x40 => some .unpack
  | 0x41 => some .pack
  | 0x42 => some .checkValid
  | 0x50 => some .split
  | 0x51 => some (.msghdr d)
  | _ => none

/-- The command a word stands for, or the first condition of 30_encoding R99 that makes it illegal. -/
def decode (w : U32) : Except Illegal Instr :=
  match opcodeMap (cmdOp w) (cmdVar w) (cmdDir w) with
  | none => .error .unmappedOp
  | some i =>
    if cmdReserved w ≠ 0 then .error .reservedBits
    else if cmdVar w = .v1 ∧ cmdOp w ≠ 0x30 ∧ cmdOp w ≠ 0x31 then .error .variantSet
    else if cmdDir w = .write ∧ cmdOp w ≠ 0x51 then .error .directionSet
    else .ok i

/-- The decoder on a word given as the opcode table numbers its bits. A command is one 32-bit word whose number is the
table's own (30_encoding R90), so there is no byte order to lay out (log 12). -/
def decodeTableWord (nbits w : Nat) : Option Instr :=
  if nbits ≤ 32 ∧ w < 2 ^ nbits then (decode (BitVec.ofNat 32 w)).toOption else none

/-- The `VAR` bit of a variant, as a number (00_scope R9). -/
def Variant.code : Variant → Nat
  | .v0 => 0
  | .v1 => 1

/-- The `DIR` bit of a direction, as a number (45_chunk_splitter R267). -/
def Direction.code : Direction → Nat
  | .read => 0
  | .write => 1

/-- The full command word of each row of 30_encoding R98. -/
def encode : Instr → U32
  | .setmode => 0x00000001
  | .getmode => 0x00000002
  | .fieldGet => 0x00000010
  | .fieldSet => 0x00000011
  | .crc32 => 0x00000020
  | .entryDecode v => BitVec.ofNat 32 (0x00000030 + v.code * 2 ^ 8)
  | .entryEncode v => BitVec.ofNat 32 (0x00000031 + v.code * 2 ^ 8)
  | .unpack => 0x00000040
  | .pack => 0x00000041
  | .checkValid => 0x00000042
  | .split => 0x00000050
  | .msghdr d => BitVec.ofNat 32 (0x00000051 + d.code * 2 ^ 9)

end Sys2Proof
end

