-- ==== Sys2Proof/Machine/State.lean ====
section
/-! DEFINITION. The state as plain data. The block's own state is `layout` and `layoutSet` (10_state R30); the rest is
what a command carries in and out (30_encoding R92, R93), the host's inputs in issue order, and the configuration the
model takes as an argument (10_state R32). -/

namespace Sys2Proof.Machine

/-- The Layout Mode (10_state R33): bit 0 MIRROR, bit 1 BSWAP, bit 2 WREV. -/
abbrev LayoutMode := BitVec 3

/-- A table set (44_container_framer R210): a device identifier and one list of records per catalog table. -/
structure TableSet where
  dev : U32
  tbl : List (List Record)
  deriving DecidableEq, Repr

/-- A chunk `(addr, off, len)` (30_encoding R96): a device word address, a byte offset and a byte length. -/
structure Chunk where
  addr : Nat
  off : Nat
  len : Nat
  deriving DecidableEq, Repr

/-- The operand slots of a command (30_encoding R92). -/
structure Slots where
  a0 : U64
  a1 : U64
  a2 : U64
  inBuf : Buffer
  record : Record
  tables : TableSet
  deriving DecidableEq, Repr

/-- Slots holding zero or nothing: their content before the first command, DESIGN CHOICE (log 4). -/
def Slots.empty : Slots := ⟨0, 0, 0, [], [], ⟨0, []⟩⟩

/-- A command (30_encoding R90, R92): the command word and its operand slots. -/
structure Command where
  word : U32
  slots : Slots
  deriving DecidableEq, Repr

/-- What can reach the block from outside (60_exceptions R303, 70_reset R320): a command or a reset event. -/
inductive Input
  | command (c : Command)
  | resetEvent
  deriving DecidableEq, Repr

/-- The result slots of a response (30_encoding R93). An empty `TSOUT` is `none` (log 7). -/
structure Results where
  r0 : U64
  out : Buffer
  recOut : Record
  tsOut : Option TableSet
  chunks : List Chunk
  deriving DecidableEq, Repr

/-- Every result slot empty, and `R0` = 0 (30_encoding R93, 60_exceptions R296). -/
def Results.empty : Results := ⟨0, [], [], none, []⟩

/-- A response (30_encoding R93): the response word `RESP` and the result slots. -/
structure Response where
  word : U32
  results : Results
  deriving DecidableEq, Repr

/-- The machine. -/
structure State where
  /-- The parameters of 00_scope R8: configuration, not state (10_state R32); no step changes it (70_reset R321). -/
  cfg : Config
  /-- `LAYOUT` (10_state R33). -/
  layout : LayoutMode
  /-- `LAYOUT_SET` (10_state R35). -/
  layoutSet : Bool
  /-- The operand slots of the command being executed (30_encoding R92). -/
  slots : Slots
  /-- The host's inputs not yet taken, oldest first (20_memory R71, 45_chunk_splitter R281); the model's own field
  (log 2). -/
  pending : List Input
  /-- The response of the last command, `none` before the first one (30_encoding R93; log 4). -/
  resp : Option Response
  deriving DecidableEq, Repr

/-- The block has no traps and nothing stops it (60_exceptions R290, R301): every error is a status in a response, so
no reason exists and nothing raises one. Safe: a type with no element adds no behaviour (log 8). -/
inductive Fault
  deriving DecidableEq, Repr

/-- Why a step gives no meaning. -/
inductive Refusal
  /-- Raised by `exec` for a command that has no meaning yet; no arm raises it now. Safe. -/
  | notModelled (mnemonic : String)
  /-- Raised by every command when the configuration breaks `WF_CAT`: "the model refuses the configuration: it defines
  no command under it" (60_exceptions R311, 00_scope R12). Safe. -/
  | illFormedCatalog
  /-- Raised by every command when a parameter is not of the kind 00_scope R8, R13, 44_container_framer R240, R242 and
  60_exceptions R294 give it (log 6). DEDUCED, safe. -/
  | illTypedParameters
  deriving DecidableEq, Repr

/-- The model instance for a configuration, right after its creation (70_reset R320, R321; 10_state R40). -/
def State.resetWith (c : Config) : State :=
  { cfg := c
    layout := 0b000
    layoutSet := false
    slots := Slots.empty
    pending := []
    resp := none }

/-- The machine right after reset: `LAYOUT` = 0b000 and `LAYOUT_SET` = 0 (10_state R40, 70_reset R320), under the
configuration log 1 names. -/
def State.reset : State := State.resetWith Config.atReset

end Sys2Proof.Machine
end

