-- ==== Sys2Proof/Machine/Flags.lean ====
section
/-! DEFINITION. The response word (30_encoding R93): status codes (60_exceptions R291), the sub-reason (R294) and the
warning bits (30_encoding R97, 60_exceptions R292). -/

namespace Sys2Proof.Machine

/-- The fatal errors (60_exceptions R291). -/
inductive Err
  | invalidFieldSpec
  | unknownBlockId
  | headerCrcMismatch
  | dataCrcMismatch
  | entryCountExceeded
  | invalidDeviceId
  | configValidationFailure (sub : Nat)
  | invalidCommand
  | modeNotSet
  | invalidLength
  | imageTruncated
  | duplicateBlockId
  | invalidChunkSize
  | addressOutOfRange
  deriving DecidableEq, Repr

/-- The status code of an error (60_exceptions R291). -/
def Err.code : Err → Nat
  | .invalidFieldSpec => 1
  | .unknownBlockId => 2
  | .headerCrcMismatch => 3
  | .dataCrcMismatch => 4
  | .entryCountExceeded => 5
  | .invalidDeviceId => 6
  | .configValidationFailure _ => 7
  | .invalidCommand => 8
  | .modeNotSet => 9
  | .invalidLength => 10
  | .imageTruncated => 11
  | .duplicateBlockId => 12
  | .invalidChunkSize => 13
  | .addressOutOfRange => 14

/-- `SUB`: the failed rule's 1-based position for ConfigValidationFailure, otherwise 0 (60_exceptions R294). -/
def Err.subReason : Err → Nat
  | .configValidationFailure sub => sub
  | _ => 0

/-- The warning bits (30_encoding R97): `WARN[0]` ValueTruncated and `WARN[1]` TableLengthMismatch. -/
structure Warn where
  valueTruncated : Bool
  tableLengthMismatch : Bool
  deriving DecidableEq, Repr

/-- `WARN` = 0, as at the start of every command (10_state R37). -/
def Warn.none : Warn := ⟨false, false⟩

/-- Only ValueTruncated, when `b` holds (60_exceptions R292). -/
def Warn.truncated (b : Bool) : Warn := ⟨b, false⟩

/-- Only TableLengthMismatch, when `b` holds (60_exceptions R292). -/
def Warn.mismatch (b : Bool) : Warn := ⟨false, b⟩

/-- The two bits of `WARN` as a number (30_encoding R97). -/
def Warn.code (w : Warn) : Nat := w.valueTruncated.toNat + 2 * w.tableLengthMismatch.toNat

/-- How a command ends (00_scope R16): `return` with results, or `raise`, each with the warnings set so far. -/
inductive Reply
  | done (w : Warn) (r : Results)
  | raise (w : Warn) (e : Err)
  deriving DecidableEq, Repr

/-- The response word: STATUS [7:0], SUB [15:8], WARN [17:16], [31:18] = 0 (30_encoding R93). -/
def respWord (status sub : Nat) (w : Warn) : U32 :=
  BitVec.ofNat 32 (status % 2 ^ 8 + (sub % 2 ^ 8) * 2 ^ 8 + w.code * 2 ^ 16)

/-- The response of a reply. An error empties every result slot and keeps the warnings set before it
(60_exceptions R296). -/
def Reply.response : Reply → Response
  | .done w r => ⟨respWord 0 0 w, r⟩
  | .raise w e => ⟨respWord e.code e.subReason w, Results.empty⟩

/-- `STATUS` = RESP[7:0] (30_encoding R93). -/
def Response.status (r : Response) : Nat := r.word.toNat % 2 ^ 8

/-- `SUB` = RESP[15:8] (30_encoding R93). -/
def Response.sub (r : Response) : Nat := r.word.toNat / 2 ^ 8 % 2 ^ 8

/-- `WARN` = RESP[17:16] (30_encoding R93). -/
def Response.warn (r : Response) : Nat := r.word.toNat / 2 ^ 16 % 2 ^ 2

/-- RESP[31:18], reserved (30_encoding R93). -/
def Response.reserved (r : Response) : Nat := r.word.toNat / 2 ^ 18

end Sys2Proof.Machine
end

