-- ==== Sys2Proof/Machine/Catalog.lean ====
section
/-! DEFINITION. The configuration: `WF_CAT` (00_scope R12), the kinds of the other parameters (R8, R13), table lookup
(43_entry_codec R191) and the device variant (44_container_framer R211). -/

namespace Sys2Proof.Machine

/-- The `(size, schema)` of a table for a variant, `none` when absent (00_scope R12). -/
def formOf (t : TableDesc) (v : Variant) : Option TableForm :=
  match v with
  | .v0 => t.formV0
  | .v1 => t.formV1

/-- The forms a table has, V0's first (00_scope R12). -/
def presentForms (t : TableDesc) : List TableForm := t.formV0.toList ++ t.formV1.toList

/-- Block ids pairwise distinct (00_scope R12 item 1). -/
def blockIdsDistinct : List TableDesc → Bool
  | [] => true
  | t :: ts => ts.all (fun u => decide (t.blockId ≠ u.blockId)) && blockIdsDistinct ts

/-- Each block id fits the `HDR_BLKID` field (00_scope R12 item 1). -/
def blockIdsFit (c : Config) : Bool := c.catalog.all (fun t => decide (t.blockId < 2 ^ c.hdrBlkId.width))

/-- `max_count · size / 4` fits the `HDR_LEN` field for every present form (00_scope R12 item 5). -/
def lengthsFit (c : Config) : Bool :=
  c.catalog.all (fun t => (presentForms t).all (fun f => decide (t.maxCount * f.size / 4 < 2 ^ c.hdrLen.width)))

/-- Every present form has a legal size and legal, disjoint fields (00_scope R12 items 2, 3 and 4). -/
def formsWellFormed (c : Config) : Bool :=
  c.catalog.all (fun t => (presentForms t).all (fun f => f.wellFormed))

/-- The two header fields are legal ranges and disjoint (00_scope R12 item 6). -/
def headerWellFormed (c : Config) : Bool :=
  c.hdrBlkId.fitsHeader && c.hdrLen.fitsHeader && c.hdrBlkId.disjoint c.hdrLen

/-- `TERMINAL_BLKID` fits the `HDR_BLKID` field (00_scope R12 item 7). -/
def terminalFits (c : Config) : Bool := decide (Config.terminalBlkId < 2 ^ c.hdrBlkId.width)

/-- `WF_CAT` (00_scope R12), items 1 to 7. -/
def wfCat (c : Config) : Bool :=
  blockIdsDistinct c.catalog && blockIdsFit c && formsWellFormed c && lengthsFit c && headerWellFormed c &&
    terminalFits c

/-- The four identifiers in order (00_scope R8 P9). -/
def deviceList (d : DeviceIds) : List DeviceId := [d.d0, d.d1, d.d2, d.d3]

/-- Each identifier is mapped to one variant (00_scope R8 P9): the four are distinct (log 6). -/
def deviceIdsDistinct : List DeviceId → Bool
  | [] => true
  | d :: ds => ds.all (fun e => decide (d.ident ≠ e.ident)) && deviceIdsDistinct ds

/-- The catalog index of a role's table (00_scope R13). -/
def roleIndex (m : RoleMap) (r : Role) : Nat :=
  match r with
  | .schedule => m.schedule
  | .scheduleEntryPoints => m.scheduleEntryPoints
  | .scheduleParams => m.scheduleParams
  | .scheduleEntryPointsParams => m.scheduleEntryPointsParams
  | .l2Policing => m.l2Policing
  | .vlanLookup => m.vlanLookup
  | .l2Forwarding => m.l2Forwarding
  | .macConfig => m.macConfig
  | .l2ForwardingParams => m.l2ForwardingParams
  | .generalParams => m.generalParams
  | .xmiiParams => m.xmiiParams
  | .vlForwardingParams => m.vlForwardingParams

/-- All twelve roles (00_scope R13). -/
def allRoles : List Role :=
  [ .schedule, .scheduleEntryPoints, .scheduleParams, .scheduleEntryPointsParams, .l2Policing, .vlanLookup,
    .l2Forwarding, .macConfig, .l2ForwardingParams, .generalParams, .xmiiParams, .vlForwardingParams ]

/-- `ROLE` maps each role to a catalog table (00_scope R13; log 6). -/
def rolesInCatalog (c : Config) : Bool :=
  allRoles.all (fun r => decide (roleIndex c.roles r < c.catalog.length))

/-- The validation rule a count requirement stands for (44_container_framer R241). -/
def requirementRule (a : Role) (q : CountReq) : ValidationRule :=
  match q with
  | .min k => .countMin a k
  | .exact k => .countExact a k

/-- The rules 4 to 10 of 44_container_framer R241, in order. -/
def requiredRules (q : RequiredCounts) : List ValidationRule :=
  [ requirementRule .l2Policing q.l2Policing, requirementRule .vlanLookup q.vlanLookup,
    requirementRule .l2Forwarding q.l2Forwarding, requirementRule .macConfig q.macConfig,
    requirementRule .l2ForwardingParams q.l2ForwardingParams, requirementRule .generalParams q.generalParams,
    requirementRule .xmiiParams q.xmiiParams ]

/-- The count of a rule is `k ≥ 1` (44_container_framer R240). -/
def ruleCountPositive (r : ValidationRule) : Bool :=
  match r with
  | .impliesNonempty _ _ => true
  | .impliesExact _ _ k => decide (1 ≤ k)
  | .countMin _ k => decide (1 ≤ k)
  | .countExact _ k => decide (1 ≤ k)
  | .memoryBudget => true

/-- `PARTITION_FIELDS(a, v)` for the two forwarding-parameters roles (44_container_framer R242); empty for another. -/
def partitionSlots (p : PartitionFields) (a : Role) (v : Variant) : List Nat :=
  match a, v with
  | .l2ForwardingParams, .v0 => p.l2V0
  | .l2ForwardingParams, .v1 => p.l2V1
  | .vlForwardingParams, .v0 => p.vlV0
  | .vlForwardingParams, .v1 => p.vlV1
  | _, _ => []

/-- The partition slots of a role name slots of its table's records, where the table is present
(44_container_framer R242; log 6). -/
def partitionSlotsIn (c : Config) (a : Role) (v : Variant) : Bool :=
  match c.catalog[roleIndex c.roles a]? with
  | none => false
  | some t =>
    match formOf t v with
    | none => true
    | some f => (partitionSlots c.partitions a v).all (fun k => decide (k < f.schema.length))

/-- `FRAME_MEMORY_BUDGET(v)` (00_scope R8 P14). -/
def budget (c : Config) (v : Variant) : Nat :=
  match v with
  | .v0 => c.budgetV0
  | .v1 => c.budgetV1

/-- The parameters outside `WF_CAT` are of the kinds 00_scope R8 and R13, 44_container_framer R240 to R242 and
60_exceptions R294 give them (log 6). -/
def wfParams (c : Config) : Bool :=
  deviceIdsDistinct (deviceList c.deviceIds) && rolesInCatalog c && (requiredRules c.required).all ruleCountPositive &&
    c.extraRules.all ruleCountPositive && decide (c.extraRules.length ≤ 244) &&
    (partitionSlotsIn c .l2ForwardingParams .v0 && partitionSlotsIn c .l2ForwardingParams .v1 &&
      partitionSlotsIn c .vlForwardingParams .v0 && partitionSlotsIn c .vlForwardingParams .v1)

/-- The configuration is one the model is built for (60_exceptions R311). -/
def wfConfig (c : Config) : Bool := wfCat c && wfParams c

/-- A table found by `lookup`: its `CATALOG` index, its descriptor and its form for the variant. -/
structure Found where
  index : Nat
  table : TableDesc
  form : TableForm
  deriving DecidableEq, Repr

/-- The first table of `ts` with block id `bid` that is present for `v`, the list starting at `CATALOG` index `i`. -/
def lookupFrom (bid : Nat) (v : Variant) : List TableDesc → Nat → Option Found
  | [], _ => none
  | t :: ts, i =>
    match formOf t v with
    | some f => if t.blockId = bid then some ⟨i, t, f⟩ else lookupFrom bid v ts (i + 1)
    | none => lookupFrom bid v ts (i + 1)

/-- `lookup(bid, v)` (43_entry_codec R191): the catalog table with that block id that is present for `v`, or
UnknownBlockId. -/
def lookup (c : Config) (bid : Nat) (v : Variant) : Except Err Found :=
  match lookupFrom bid v c.catalog 0 with
  | some f => .ok f
  | none => .error .unknownBlockId

/-- `VariantOf(dev)` (44_container_framer R211), or InvalidDeviceId. -/
def variantOf (c : Config) (dev : U32) : Except Err Variant :=
  match (deviceList c.deviceIds).find? (fun d => d.ident == dev) with
  | some d => .ok d.variant
  | none => .error .invalidDeviceId

end Sys2Proof.Machine
end

