-- ==== Sys2Proof/Machine/Operands.lean ====
section
/-! DEFINITION. Operand assembly (30_encoding R94): which slot each operand is read from, and the operand bits that
must be 0. No operand is scaled, shifted or sign-extended. -/

namespace Sys2Proof.Machine

/-- Bits 63 down to `lo` of a slot are 0 (30_encoding R94). -/
def highBitsZero (x : U64) (lo : Nat) : Bool := decide (x.toNat < 2 ^ lo)

/-- SETMODE: `A0[63:8]` must be 0 (30_encoding R94). -/
def setmodeSlotLegal (s : State) : Bool := highBitsZero s.slots.a0 8

/-- SETMODE: the reserved bits `A0[7:3]` of the mode byte must be 0 (10_state R34, 40_mode_control R120). -/
def setmodeByteLegal (s : State) : Bool := decide (s.slots.a0.toNat / 2 ^ 3 % 2 ^ 5 = 0)

/-- SETMODE: the new mode, `A0[2:0]` (40_mode_control R120). -/
def modeOperand (s : State) : LayoutMode := BitVec.ofNat 3 s.slots.a0.toNat

/-- FIELD_GET, FIELD_SET: msb = `A0`, a full 64-bit unsigned number (30_encoding R94). -/
def msbOperand (s : State) : Nat := s.slots.a0.toNat

/-- FIELD_GET, FIELD_SET: lsb = `A1` (30_encoding R94). -/
def lsbOperand (s : State) : Nat := s.slots.a1.toNat

/-- FIELD_SET: value = `A2` (30_encoding R94). -/
def valueOperand (s : State) : U64 := s.slots.a2

/-- ENTRY_DECODE, ENTRY_ENCODE: block id = `A0` (30_encoding R94). -/
def blockIdOperand (s : State) : Nat := s.slots.a0.toNat

/-- PACK: `A0[63:32]` must be 0 (30_encoding R94). -/
def packSlotLegal (s : State) : Bool := highBitsZero s.slots.a0 32

/-- PACK: placeholder = `A0[31:0]` (30_encoding R94). -/
def placeholderOperand (s : State) : U32 := BitVec.ofNat 32 s.slots.a0.toNat

/-- SPLIT: base address = `A0` (30_encoding R94). -/
def baseOperand (s : State) : Nat := s.slots.a0.toNat

/-- SPLIT: max chunk bytes = `A1` (30_encoding R94). -/
def maxChunkOperand (s : State) : Nat := s.slots.a1.toNat

/-- MSGHDR: word address = `A0` (30_encoding R94). -/
def wordAddressOperand (s : State) : U64 := s.slots.a0

/-- MSGHDR: read word count = `A1` (30_encoding R94). -/
def readCountOperand (s : State) : U64 := s.slots.a1

end Sys2Proof.Machine
end

