-- ==== Sys2Proof/Machine/Ops.lean ====
section
/-! DEFINITION. The operations every command shares: answering with a response, raising an error, the checks of
60_exceptions R300 steps 1 to 3, taking the host's next input, and reset. The block has no traps: raising an error
saves nothing and transfers control nowhere (60_exceptions R301), so there is no return from one (R302). -/

namespace Sys2Proof.Machine

/-- An outcome of this machine. -/
abbrev Answer := Host.Outcome State Fault Refusal

/-- The state after the block returned `r` as its response (30_encoding R93). -/
def respond (s : State) (r : Response) : State := { s with resp := some r }

/-- A command is defined only under a configuration the model is built for (60_exceptions R311, 00_scope R12):
under it the command ends in `t`. -/
def underConfig (s t : State) : Answer :=
  if wfCat s.cfg = false then .refused .illFormedCatalog
  else if wfParams s.cfg = false then .refused .illTypedParameters
  else .next t

/-- A command ends with the reply `r` and changes nothing but the response (00_scope R16, 10_state R30). -/
def answer (s : State) (r : Reply) : Answer := underConfig s (respond s r.response)

/-- Raising a fatal error with `WARN` = 0 (60_exceptions R296): the one operation behind every early error. -/
def raising (e : Err) : Reply := .raise Warn.none e

/-- A reply with no result and `WARN` = 0 (30_encoding R93). -/
def doneNothing : Reply := .done Warn.none Results.empty

/-- A reply whose only result is `R0` (30_encoding R93). -/
def doneR0 (v : U64) : Reply := .done Warn.none { Results.empty with r0 := v }

/-- A reply whose only result is `OUT`, with ValueTruncated as given (30_encoding R93, R97). -/
def doneOut (trunc : Bool) (b : Buffer) : Reply := .done (Warn.truncated trunc) { Results.empty with out := b }

/-- A reply whose only result is `RECOUT` (30_encoding R93). -/
def doneRecord (r : Record) : Reply := .done Warn.none { Results.empty with recOut := r }

/-- A reply whose only result is `TSOUT`, with TableLengthMismatch as given (30_encoding R93, R97). -/
def doneTables (mismatch : Bool) (t : TableSet) : Reply :=
  .done (Warn.mismatch mismatch) { Results.empty with tsOut := some t }

/-- A reply whose only result is `CHUNKS` (30_encoding R93). -/
def doneChunks (c : List Chunk) : Reply := .done Warn.none { Results.empty with chunks := c }

/-- The reply of an inner function that can fail: its error, unchanged (60_exceptions R297), or `k` of its value. -/
def replyOf {α : Type} (r : Except Err α) (k : α → Reply) : Reply :=
  match r with
  | .error e => raising e
  | .ok a => k a

/-- ModeNotSet while `LAYOUT_SET` = 0 (10_state R35); else the mode is latched once and passed on (10_state R36). -/
def withMode (s : State) (k : LayoutMode → Reply) : Reply :=
  if s.layoutSet then k s.layout else raising .modeNotSet

/-- A length exceeds `MAX_BUF_BYTES` (20_memory R62, 00_scope R8 P16). -/
def tooLong (c : Config) (n : Nat) : Bool :=
  match c.maxBufBytes with
  | none => false
  | some k => decide (k < n)

/-- InvalidLength for an `IN` longer than `MAX_BUF_BYTES` (20_memory R62, 60_exceptions R300 step 3); else `IN`. -/
def withInput (s : State) (k : Buffer → Reply) : Reply :=
  if tooLong s.cfg s.slots.inBuf.length then raising .invalidLength else k s.slots.inBuf

/-- A command whose word is illegal raises InvalidCommand with no other effect (30_encoding R99). -/
def illegalCommand (s : State) : Answer := answer s (raising .invalidCommand)

/-- The reset event (70_reset R320, R321): the block's state takes its reset values, the configuration stays, the
inputs after it are still to come, and no response is outstanding (log 5). -/
def applyReset (s : State) (rest : List Input) : State := { State.resetWith s.cfg with pending := rest }

/-- The operand slots take what the host wrote with the command (30_encoding R92). -/
def loadCommand (s : State) (c : Command) (rest : List Input) : State :=
  { s with slots := c.slots, pending := rest }

/-- What the block takes from the host next. -/
inductive Fetched
  | nothing
  | wasReset (t : State)
  | illegal (t : State)
  | run (i : Instr) (t : State)
  deriving DecidableEq, Repr

/-- Taking the oldest input (20_memory R71). -/
def fetch (s : State) : Fetched :=
  match s.pending with
  | [] => .nothing
  | .resetEvent :: rest => .wasReset (applyReset s rest)
  | .command c :: rest =>
    match decode c.word with
    | .ok i => .run i (loadCommand s c rest)
    | .error _ => .illegal (loadCommand s c rest)

/-- With no input nothing reaches the block (60_exceptions R303) and its state survives (R310): nothing changes
(log 3). -/
def idle (s : State) : Answer := .next s

/-- The input list with the command word `w` at its front, the operand slots kept (log 12). -/
def placeWord (s : State) (w : U32) : List Input :=
  match s.pending with
  | .command c :: rest => .command { c with word := w } :: rest
  | rest => .command ⟨w, s.slots⟩ :: rest

end Sys2Proof.Machine
end

