-- ==== Sys2Proof/Machine/Accessor.lean ====
section
/-! DEFINITION. The bit-field accessor (41_field_accessor): the field checks, the logical-to-physical mapping, the two
directions, the source's byte walk, and the commands FIELD_GET and FIELD_SET. -/

namespace Sys2Proof.Machine

/-- `LAYOUT[0]`: bit-order mirroring in each byte (10_state R33). -/
def mirrorOn (m : LayoutMode) : Bool := m.getLsbD 0
/-- `LAYOUT[1]`: byte-order swap in each 4-byte word (10_state R33). -/
def bswapOn (m : LayoutMode) : Bool := m.getLsbD 1
/-- `LAYOUT[2]`: word-order reversal over the buffer (10_state R33). -/
def wrevOn (m : LayoutMode) : Bool := m.getLsbD 2

/-- `check_f(L, msb, lsb, m)` (41_field_accessor R140): the first error that applies. -/
def checkField (L msb lsb : Nat) (m : LayoutMode) : Option Err :=
  if msb < lsb then some .invalidFieldSpec
  else if Config.maxFieldWidth < msb - lsb + 1 then some .invalidFieldSpec
  else if 8 * L ≤ msb then some .invalidFieldSpec
  else if (bswapOn m || wrevOn m) && decide (L % 4 ≠ 0) then some .invalidLength
  else none

/-- The byte swap in a 4-byte word, on a byte address (41_field_accessor R141 (a)). -/
def swapInWord (m : LayoutMode) (a : Nat) : Nat := if bswapOn m then 4 * (a / 4) + (3 - a % 4) else a

/-- The word-order reversal of an `L`-byte buffer, on a byte address (41_field_accessor R141 (c)). -/
def reverseWords (m : LayoutMode) (L a : Nat) : Nat := if wrevOn m then 4 * (L / 4 - 1 - a / 4) + a % 4 else a

/-- `phys(k, L, m)` (41_field_accessor R141): base mapping, then byte swap, then word reversal. -/
def phys (k L : Nat) (m : LayoutMode) : Nat := reverseWords m L (swapInWord m (L - 1 - k))

/-- `bitpos(j, m)` (41_field_accessor R142). -/
def bitpos (j : Nat) (m : LayoutMode) : Nat := if mirrorOn m then 7 - j else j

/-- `PhysBit(p, L, m)` (41_field_accessor R143). -/
def physBit (p L : Nat) (m : LayoutMode) : Nat × Nat := (phys (p / 8) L m, bitpos (p % 8) m)

/-- Bit `j` of byte `a` of a buffer (00_scope R14, R15). -/
def bufBit (B : Buffer) (pos : Nat × Nat) : Bool := (B.getD pos.1 0).getLsbD pos.2

/-- A byte with bit `j` cleared or set (41_field_accessor R148). -/
def byteWithBit (v : Byte) (j : Nat) (b : Bool) : Byte :=
  if b then v ||| BitVec.twoPow 8 j else v &&& ~~~ (BitVec.twoPow 8 j)

/-- A buffer with bit `j` of byte `a` cleared or set, all other bits kept (41_field_accessor R148). -/
def setBufBit (B : Buffer) (pos : Nat × Nat) (b : Bool) : Buffer :=
  B.set pos.1 (byteWithBit (B.getD pos.1 0) pos.2 b)

/-- The `w` logical bits from `lsb` up, as a number: bit `i` is logical bit `lsb + i` (41_field_accessor R146). -/
def readBits (B : Buffer) (lsb : Nat) (m : LayoutMode) : Nat → Nat
  | 0 => 0
  | i + 1 => readBits B lsb m i + (bufBit B (physBit (lsb + i) B.length m)).toNat * 2 ^ i

/-- The buffer after the `w` logical bits from `lsb` up took the low bits of `x` (41_field_accessor R148). -/
def writeBits (B : Buffer) (lsb : Nat) (x : U64) (m : LayoutMode) : Nat → Buffer
  | 0 => B
  | i + 1 => setBufBit (writeBits B lsb x m i) (physBit (lsb + i) B.length m) (x.getLsbD i)

/-- `FIELD_GET_f(B, msb, lsb, m)` (41_field_accessor R146). -/
def fieldGetF (B : Buffer) (msb lsb : Nat) (m : LayoutMode) : Except Err U64 :=
  match checkField B.length msb lsb m with
  | some e => .error e
  | none => .ok (BitVec.ofNat 64 (readBits B lsb m (msb - lsb + 1)))

/-- "value does not fit in width bits" (41_field_accessor R148). -/
def truncates (w : Nat) (x : U64) : Bool := decide (w < 64) && decide (2 ^ w ≤ x.toNat)

/-- `FIELD_SET_f(B, msb, lsb, x, m)` (41_field_accessor R148): the buffer and the truncation flag. -/
def fieldSetF (B : Buffer) (msb lsb : Nat) (x : U64) (m : LayoutMode) : Except Err (Buffer × Bool) :=
  match checkField B.length msb lsb m with
  | some e => .error e
  | none => .ok (writeBits B lsb x m (msb - lsb + 1), truncates (msb - lsb + 1) x)

/-- `U32_f(x, m)` (00_scope R17): a 32-bit value stored as a 4-byte buffer. -/
def u32F (x : U32) (m : LayoutMode) : Except Err Buffer :=
  match fieldSetF (zeros 4) 31 0 (BitVec.ofNat 64 x.toNat) m with
  | .error e => .error e
  | .ok r => .ok r.1

/-- `GET32_f(S, m)` (00_scope R17): a 4-byte buffer read as a 32-bit value. -/
def get32F (S : Buffer) (m : LayoutMode) : Except Err U32 :=
  match fieldGetF S 31 0 m with
  | .error e => .error e
  | .ok v => .ok (BitVec.ofNat 32 v.toNat)

/-- The box start bit inside logical byte `box` (41_field_accessor R145). -/
def boxStart (msb box : Nat) : Nat := if box = msb / 8 then msb % 8 else 7

/-- The box end bit inside logical byte `box` (41_field_accessor R145). -/
def boxEnd (lsb box : Nat) : Nat := if box = lsb / 8 then lsb % 8 else 0

/-- Bits `e` up to `e + n - 1` of a physical byte in logical order: under MIRROR logical bit `j` is physical bit
`7 - j` (41_field_accessor R142, R145). -/
def boxBits (b : Byte) (m : LayoutMode) (e : Nat) : Nat → Nat
  | 0 => 0
  | i + 1 => boxBits b m e i + (b.getLsbD (bitpos (e + i) m)).toNat * 2 ^ i

/-- The bits one box contributes, at its home bits `hs .. he` (41_field_accessor R145). -/
def boxValue (B : Buffer) (msb lsb : Nat) (m : LayoutMode) (box : Nat) : Nat :=
  boxBits (B.getD (phys box B.length m) 0) m (boxEnd lsb box) (boxStart msb box + 1 - boxEnd lsb box) *
    2 ^ (8 * box + boxEnd lsb box - lsb)

/-- The boxes `lsb div 8 + n - 1` down to `lsb div 8`, their bits ORed into the value (41_field_accessor R145). -/
def walkBoxes (B : Buffer) (msb lsb : Nat) (m : LayoutMode) : Nat → Nat
  | 0 => 0
  | n + 1 => boxValue B msb lsb m (lsb / 8 + n) ||| walkBoxes B msb lsb m n

/-- The source's byte walk, from the byte of `msb` down to the byte of `lsb`, in decode direction
(41_field_accessor R145, R147). -/
def fieldGetWalk (B : Buffer) (msb lsb : Nat) (m : LayoutMode) : Except Err U64 :=
  match checkField B.length msb lsb m with
  | some e => .error e
  | none => .ok (BitVec.ofNat 64 (walkBoxes B msb lsb m (msb / 8 + 1 - lsb / 8)))

/-- The bits of `x` from home bit `h` up, put into bits `e` up of a physical byte in logical order
(41_field_accessor R145). -/
def storeBoxBits (b : Byte) (m : LayoutMode) (e : Nat) (x : U64) (h : Nat) : Nat → Byte
  | 0 => b
  | i + 1 => byteWithBit (storeBoxBits b m e x h i) (bitpos (e + i) m) (x.getLsbD (h + i))

/-- The buffer after one box took its home bits of `x` (41_field_accessor R145). -/
def storeBox (B : Buffer) (msb lsb : Nat) (x : U64) (m : LayoutMode) (box : Nat) : Buffer :=
  B.set (phys box B.length m)
    (storeBoxBits (B.getD (phys box B.length m) 0) m (boxEnd lsb box) x (8 * box + boxEnd lsb box - lsb)
      (boxStart msb box + 1 - boxEnd lsb box))

/-- The boxes `lsb div 8 + n - 1` down to `lsb div 8`, each taking its home bits (41_field_accessor R145). -/
def storeBoxes (msb lsb : Nat) (x : U64) (m : LayoutMode) : Nat → Buffer → Buffer
  | 0, B => B
  | n + 1, B => storeBoxes msb lsb x m n (storeBox B msb lsb x m (lsb / 8 + n))

/-- The source's byte walk in encode direction (41_field_accessor R145). -/
def fieldSetWalk (B : Buffer) (msb lsb : Nat) (x : U64) (m : LayoutMode) : Except Err (Buffer × Bool) :=
  match checkField B.length msb lsb m with
  | some e => .error e
  | none => .ok (storeBoxes msb lsb x m (msb / 8 + 1 - lsb / 8) B, truncates (msb - lsb + 1) x)

/-- The reply of FIELD_GET (41_field_accessor R150). -/
def fieldGetReply (s : State) : Reply :=
  withMode s fun m => withInput s fun B => replyOf (fieldGetF B (msbOperand s) (lsbOperand s) m) doneR0

/-- FIELD_GET (41_field_accessor R150). -/
def execFieldGet (s : State) : Answer := answer s (fieldGetReply s)

/-- The reply of FIELD_SET (41_field_accessor R151). -/
def fieldSetReply (s : State) : Reply :=
  withMode s fun m => withInput s fun B =>
    replyOf (fieldSetF B (msbOperand s) (lsbOperand s) (valueOperand s) m) fun r => doneOut r.2 r.1

/-- FIELD_SET (41_field_accessor R151). -/
def execFieldSet (s : State) : Answer := answer s (fieldSetReply s)

end Sys2Proof.Machine
end

