-- ==== Sys2Proof/Machine/Crc.lean ====
section
/-! DEFINITION. The CRC-32 generator (42_crc32) and the command CRC32. -/

namespace Sys2Proof.Machine

/-- `bitrev_n(v)` (00_scope R17): bit `n - 1 - i` of the result is bit `i` of `v`. -/
def bitrev {n : Nat} (v : BitVec n) : BitVec n := v.reverse

/-- One of the 8 iterations (42_crc32 R171): shift left, and XOR the polynomial when bit 31 was 1. -/
def crcStep (crc : U32) : U32 := if crc.getLsbD 31 then (crc <<< 1) ^^^ Config.crcPoly else crc <<< 1

/-- `n` iterations of `crcStep` (42_crc32 R171). -/
def crcSteps : Nat → U32 → U32
  | 0, crc => crc
  | n + 1, crc => crcSteps n (crcStep crc)

/-- One byte into the running CRC: bit-reversed at bits 31..24, then 8 iterations (42_crc32 R171). -/
def crcByte (crc : U32) (b : Byte) : U32 := crcSteps 8 (crc ^^^ ((bitrev b).setWidth 32 <<< 24))

/-- The bytes of a word, low-order byte first (42_crc32 R173). -/
def wordBytes (w : U64) : List Byte := [w.extractLsb' 0 8, w.extractLsb' 8 8, w.extractLsb' 16 8, w.extractLsb' 24 8]

/-- One word into the running CRC (42_crc32 R171). -/
def crcWord (crc : U32) (w : U64) : U32 := (wordBytes w).foldl crcByte crc

/-- The words of a buffer in increasing offset, each read as its own 4-byte buffer (42_crc32 R171, R172). -/
def crcWords (m : LayoutMode) : Buffer → U32 → Except Err U32
  | b0 :: b1 :: b2 :: b3 :: rest, crc =>
    match fieldGetF [b0, b1, b2, b3] 31 0 m with
    | .error e => .error e
    | .ok w => crcWords m rest (crcWord crc w)
  | _, crc => .ok crc

/-- `CRC32_f(B, m)` (42_crc32 R171, R174). -/
def crc32F (B : Buffer) (m : LayoutMode) : Except Err U32 :=
  if B.length % 4 ≠ 0 then .error .invalidLength
  else
    match crcWords m B Config.crcSeed with
    | .error e => .error e
    | .ok crc => .ok (bitrev (crc ^^^ 0xFFFFFFFF))

/-- The reply of CRC32 (42_crc32 R175). -/
def crc32Reply (s : State) : Reply :=
  withMode s fun m => withInput s fun B => replyOf (crc32F B m) fun c => doneR0 (BitVec.ofNat 64 c.toNat)

/-- CRC32 (42_crc32 R175). -/
def execCrc32 (s : State) : Answer := answer s (crc32Reply s)

end Sys2Proof.Machine
end

