-- ==== Sys2Proof/Machine/Entry.lean ====
section
/-! DEFINITION. The table entry codec (43_entry_codec) and the commands ENTRY_DECODE and ENTRY_ENCODE. -/

namespace Sys2Proof.Machine

/-- Every declared field of `E` into its slot, in schema order (43_entry_codec R192). -/
def decodeFields (E : Buffer) (m : LayoutMode) : List FieldDesc → Except Err Record
  | [] => .ok []
  | f :: fs =>
    match fieldGetF E f.msb f.lsb m with
    | .error e => .error e
    | .ok v =>
      match decodeFields E m fs with
      | .error e => .error e
      | .ok r => .ok (v :: r)

/-- `ENTRY_DECODE_f(t, v, E, m)` for the form of t under v (43_entry_codec R192). -/
def entryDecodeF (t : TableForm) (E : Buffer) (m : LayoutMode) : Except Err Record :=
  if E.length ≠ t.size then .error .invalidLength else decodeFields E m t.schema

/-- Every declared field written from its slot, in schema order, the truncation flags ORed (43_entry_codec R193). -/
def encodeFields (m : LayoutMode) : List FieldDesc → Record → Buffer → Bool → Except Err (Buffer × Bool)
  | f :: fs, x :: r, E, trunc =>
    match fieldSetF E f.msb f.lsb x m with
    | .error e => .error e
    | .ok q => encodeFields m fs r q.1 (trunc || q.2)
  | _, _, E, trunc => .ok (E, trunc)

/-- `ENTRY_ENCODE_f(t, v, r, m)` for the form of t under v (43_entry_codec R193). -/
def entryEncodeF (t : TableForm) (r : Record) (m : LayoutMode) : Except Err (Buffer × Bool) :=
  if r.length ≠ t.schema.length then .error .invalidLength else encodeFields m t.schema r (zeros t.size) false

/-- The reply of ENTRY_DECODE (43_entry_codec R195). -/
def entryDecodeReply (v : Variant) (s : State) : Reply :=
  withMode s fun m => withInput s fun B =>
    replyOf (lookup s.cfg (blockIdOperand s) v) fun t => replyOf (entryDecodeF t.form B m) doneRecord

/-- ENTRY_DECODE (43_entry_codec R195). -/
def execEntryDecode (v : Variant) (s : State) : Answer := answer s (entryDecodeReply v s)

/-- The reply of ENTRY_ENCODE (43_entry_codec R196). -/
def entryEncodeReply (v : Variant) (s : State) : Reply :=
  withMode s fun m =>
    replyOf (lookup s.cfg (blockIdOperand s) v) fun t =>
      replyOf (entryEncodeF t.form s.slots.record m) fun q => doneOut q.2 q.1

/-- ENTRY_ENCODE (43_entry_codec R196). -/
def execEntryEncode (v : Variant) (s : State) : Answer := answer s (entryEncodeReply v s)

end Sys2Proof.Machine
end

