-- ==== Sys2Proof/Machine/Framer.lean ====
section
/-! DEFINITION. The container framer (44_container_framer): headers, the preflight, PACK and UNPACK. -/

namespace Sys2Proof.Machine

/-- `HDR_f(bid, lenw, m)` (44_container_framer R212): the 8 bytes of header fields, every other bit 0. -/
def hdrF (c : Config) (bid lenw : Nat) (m : LayoutMode) : Except Err Buffer :=
  match fieldSetF (zeros 8) c.hdrBlkId.msb c.hdrBlkId.lsb (BitVec.ofNat 64 bid) m with
  | .error e => .error e
  | .ok q =>
    match fieldSetF q.1 c.hdrLen.msb c.hdrLen.lsb (BitVec.ofNat 64 lenw) m with
    | .error e => .error e
    | .ok r => .ok r.1

/-- `HBID_f(H8, m)` (44_container_framer R212). -/
def hbidF (c : Config) (H8 : Buffer) (m : LayoutMode) : Except Err U64 :=
  fieldGetF H8 c.hdrBlkId.msb c.hdrBlkId.lsb m

/-- `HLEN_f(H8, m)` (44_container_framer R212). -/
def hlenF (c : Config) (H8 : Buffer) (m : LayoutMode) : Except Err U64 :=
  fieldGetF H8 c.hdrLen.msb c.hdrLen.lsb m

/-- `U32_f(CRC32_f(B, m), m)`: the stored form of a CRC (42_crc32 R178). -/
def storedCrc (B : Buffer) (m : LayoutMode) : Except Err Buffer :=
  match crc32F B m with
  | .error e => .error e
  | .ok c => u32F c m

/-- Every record has one slot per field of the schema (44_container_framer R216). -/
def recordsFit (t : TableForm) (recs : List Record) : Bool :=
  recs.all (fun r => decide (r.length = t.schema.length))

/-- The checks of one table of a table set (44_container_framer R216), the first that fails. -/
def preflightTable (v : Variant) (t : TableDesc) (recs : List Record) : Option Err :=
  match formOf t v with
  | none => if 0 < recs.length then some .unknownBlockId else none
  | some f =>
    if t.maxCount < recs.length then some .entryCountExceeded
    else if recordsFit f recs = false then some .invalidLength
    else none

/-- The tables in `CATALOG` order, the first error (44_container_framer R216). -/
def preflightTables (v : Variant) : List TableDesc → List (List Record) → Option Err
  | t :: ts, recs :: rest =>
    match preflightTable v t recs with
    | some e => some e
    | none => preflightTables v ts rest
  | _, _ => none

/-- `PREFLIGHT_f(TS)` (44_container_framer R216): the variant, or the first error. -/
def preflightF (c : Config) (ts : TableSet) : Except Err Variant :=
  match variantOf c ts.dev with
  | .error e => .error e
  | .ok v =>
    if ts.tbl.length ≠ c.catalog.length then .error .invalidLength
    else
      match preflightTables v c.catalog ts.tbl with
      | some e => .error e
      | none => .ok v

/-- The entries of one table, each encoded, in list order, the truncation flags ORed (44_container_framer R215). -/
def packBody (t : TableForm) (m : LayoutMode) : List Record → Except Err (Buffer × Bool)
  | [] => .ok ([], false)
  | r :: rs =>
    match entryEncodeF t r m with
    | .error e => .error e
    | .ok x =>
      match packBody t m rs with
      | .error e => .error e
      | .ok y => .ok (x.1 ++ y.1, x.2 || y.2)

/-- One non-empty table: header, header CRC, entries, data CRC (44_container_framer R213, R215 step 2). -/
def packTable (c : Config) (t : TableDesc) (f : TableForm) (m : LayoutMode) (recs : List Record) :
    Except Err (Buffer × Bool) :=
  match hdrF c t.blockId (recs.length * f.size / 4) m with
  | .error e => .error e
  | .ok h8 =>
    match storedCrc h8 m with
    | .error e => .error e
    | .ok hcrc =>
      match packBody f m recs with
      | .error e => .error e
      | .ok body =>
        match storedCrc body.1 m with
        | .error e => .error e
        | .ok dcrc => .ok (h8 ++ hcrc ++ body.1 ++ dcrc, body.2)

/-- The non-empty tables in `CATALOG` order; empty ones emit nothing (44_container_framer R215 step 2, R217). -/
def packTables (c : Config) (v : Variant) (m : LayoutMode) :
    List TableDesc → List (List Record) → Except Err (Buffer × Bool)
  | _ :: ts, [] :: rest => packTables c v m ts rest
  | t :: ts, recs :: rest =>
    match formOf t v with
    | none => .error .unknownBlockId
    | some f =>
      match packTable c t f m recs with
      | .error e => .error e
      | .ok x =>
        match packTables c v m ts rest with
        | .error e => .error e
        | .ok y => .ok (x.1 ++ y.1, x.2 || y.2)
  | _, _ => .ok ([], false)

/-- The terminal header with its placeholder (44_container_framer R213, R215 step 3, R218). -/
def terminalF (c : Config) (ph : U32) (m : LayoutMode) : Except Err Buffer :=
  match hdrF c Config.terminalBlkId 0 m with
  | .error e => .error e
  | .ok h8 =>
    match u32F ph m with
    | .error e => .error e
    | .ok p => .ok (h8 ++ p)

/-- The image of a table set for variant `v` (44_container_framer R213, R215): device identifier, tables, terminal
header; with whether a value was truncated. -/
def packImage (c : Config) (v : Variant) (ts : TableSet) (ph : U32) (m : LayoutMode) : Except Err (Buffer × Bool) :=
  match u32F ts.dev m with
  | .error e => .error e
  | .ok d =>
    match packTables c v m c.catalog ts.tbl with
    | .error e => .error e
    | .ok body =>
      match terminalF c ph m with
      | .error e => .error e
      | .ok t => .ok (d ++ body.1 ++ t, body.2)

/-- PACK after the image is made: it may not exceed `MAX_BUF_BYTES`, and the warning set so far stays
(44_container_framer R215, 60_exceptions R296). -/
def packFinish (c : Config) (x : Buffer × Bool) : Reply :=
  if tooLong c x.1.length then .raise (Warn.truncated x.2) .invalidLength else doneOut x.2 x.1

/-- The reply of PACK (44_container_framer R215). -/
def packReply (s : State) : Reply :=
  if packSlotLegal s = false then raising .invalidCommand
  else withMode s fun m =>
    replyOf (preflightF s.cfg s.slots.tables) fun v =>
      replyOf (packImage s.cfg v s.slots.tables (placeholderOperand s) m) fun x => packFinish s.cfg x

/-- PACK (44_container_framer R215). -/
def execPack (s : State) : Answer := answer s (packReply s)

/-- `B[a : a+n]` (00_scope R15). -/
def slice (B : Buffer) (a n : Nat) : Buffer := (B.drop a).take n

/-- `n` entries of a table's region from offset `b` (44_container_framer R225 step 4). -/
def unpackEntries (B : Buffer) (t : TableForm) (m : LayoutMode) (b : Nat) : Nat → Except Err (List Record)
  | 0 => .ok []
  | n + 1 =>
    match entryDecodeF t (slice B b t.size) m with
    | .error e => .error e
    | .ok r =>
      match unpackEntries B t m (b + t.size) n with
      | .error e => .error e
      | .ok rs => .ok (r :: rs)

/-- The header at the cursor, parsed and checked up to the table lookup. -/
inductive Header
  | terminal
  | table (t : Found) (lenw : Nat)
  deriving DecidableEq, Repr

/-- Steps 1 to 3 of UNPACK at cursor `p` (44_container_framer R225, R227, R228, R232): the header must fit, a length
field 0 is the terminal marker and its CRC is not checked, the header CRC must match, the block id must be known. -/
def readHeader (c : Config) (v : Variant) (m : LayoutMode) (B : Buffer) (p : Nat) : Except Err Header :=
  if B.length < p + Config.hdrBytes then .error .imageTruncated
  else
    match hlenF c (slice B p 8) m, hbidF c (slice B p 8) m, crc32F (slice B p 8) m, get32F (slice B (p + 8) 4) m with
    | .ok lenw, .ok bid, .ok crc, .ok stored =>
      if lenw = 0 then .ok .terminal
      else if crc ≠ stored then .error .headerCrcMismatch
      else
        match lookup c bid.toNat v with
        | .error e => .error e
        | .ok t => .ok (.table t lenw.toNat)
    | .error e, _, _, _ => .error e
    | _, .error e, _, _ => .error e
    | _, _, .error e, _ => .error e
    | _, _, _, .error e => .error e

/-- A table's entries, checked and decoded from its region of `D` bytes at `b` (44_container_framer R225 steps 6 and
4, R227, R229): the count, then the bounds, then the entries. -/
def readBody (t : Found) (m : LayoutMode) (B : Buffer) (b D : Nat) : Except Err (List Record) :=
  if t.table.maxCount < D / t.form.size then .error .entryCountExceeded
  else if B.length < b + D + 4 then .error .imageTruncated
  else unpackEntries B t.form m b (D / t.form.size)

/-- The data CRC over the whole declared region against the 4 bytes after it (44_container_framer R230, R231). -/
def checkDataCrc (m : LayoutMode) (B : Buffer) (b D : Nat) : Option Err :=
  match crc32F (slice B b D) m, get32F (slice B (b + D) 4) m with
  | .ok crc, .ok stored => if crc = stored then none else some .dataCrcMismatch
  | .error e, _ => some e
  | _, .error e => some e

/-- The loop of UNPACK (44_container_framer R225) at cursor `p`, with the tables decoded so far, the `CATALOG` indices
seen, and whether TableLengthMismatch is set. It answers the warning set and the tables or the first error. Each turn
moves the cursor by at least 16 bytes, so `fuel` above the image's length never runs out (log 13). -/
def unpackLoop (c : Config) (v : Variant) (m : LayoutMode) (B : Buffer) :
    Nat → Nat → List (List Record) → List Nat → Bool → Bool × Except Err (List (List Record))
  | 0, _, _, _, warn => (warn, .error .imageTruncated)
  | fuel + 1, p, tbl, seen, warn =>
    match readHeader c v m B p with
    | .error e => (warn, .error e)
    | .ok .terminal => (warn, .ok tbl)
    | .ok (.table t lenw) =>
      if t.index ∈ seen then (warn, .error .duplicateBlockId)
      else
        match readBody t m B (p + 12) (4 * lenw) with
        | .error e => (warn, .error e)
        | .ok recs =>
          let warn' := warn || decide (4 * lenw / t.form.size * t.form.size ≠ 4 * lenw)
          match checkDataCrc m B (p + 12) (4 * lenw) with
          | some e => (warn', .error e)
          | none =>
            unpackLoop c v m B fuel (p + 12 + 4 * lenw + 4) (tbl.set t.index (tbl.getD t.index [] ++ recs))
              (t.index :: seen) warn'

/-- One empty list per catalog table (44_container_framer R225). -/
def emptyTables (c : Config) : List (List Record) := List.replicate c.catalog.length []

/-- How UNPACK ends once the device identifier is known (44_container_framer R225). -/
def unpackFinish (dev : U32) (r : Bool × Except Err (List (List Record))) : Reply :=
  match r.2 with
  | .error e => .raise (Warn.mismatch r.1) e
  | .ok tbl => doneTables r.1 ⟨dev, tbl⟩

/-- The device identifier of an image (44_container_framer R225, R226). -/
def imageDev (B : Buffer) (m : LayoutMode) : Except Err U32 :=
  if B.length < Config.devidBytes then .error .imageTruncated else get32F (slice B 0 4) m

/-- The reply of UNPACK (44_container_framer R225). -/
def unpackReply (s : State) : Reply :=
  withMode s fun m => withInput s fun B =>
    replyOf (imageDev B m) fun dev =>
      replyOf (variantOf s.cfg dev) fun v =>
        unpackFinish dev (unpackLoop s.cfg v m B (B.length + 1) Config.devidBytes (emptyTables s.cfg) [] false)

/-- UNPACK (44_container_framer R225). -/
def execUnpack (s : State) : Answer := answer s (unpackReply s)

end Sys2Proof.Machine
end

