-- ==== Sys2Proof/Machine/Mode.lean ====
section
/-! DEFINITION. SETMODE and GETMODE (40_mode_control). -/

namespace Sys2Proof.Machine

/-- The state in which the Layout Mode `m` is established (40_mode_control R120). -/
def establish (s : State) (m : LayoutMode) : State := { s with layout := m, layoutSet := true }

/-- SETMODE (40_mode_control R120). -/
def execSetmode (s : State) : Answer :=
  if setmodeSlotLegal s = false then answer s (raising .invalidCommand)
  else if setmodeByteLegal s = false then answer s (raising .invalidCommand)
  else answer (establish s (modeOperand s)) doneNothing

/-- The mode byte `LAYOUT_SET << 7 | LAYOUT` (40_mode_control R123). -/
def modeByte (s : State) : U64 := BitVec.ofNat 64 (s.layoutSet.toNat * 2 ^ 7 + s.layout.toNat)

/-- GETMODE (40_mode_control R123). -/
def execGetmode (s : State) : Answer := answer s (doneR0 (modeByte s))

end Sys2Proof.Machine
end

