-- ==== Sys2Proof/Machine/Splitter.lean ====
section
/-! DEFINITION. The chunk splitter and the transport message header (45_chunk_splitter): SPLIT and MSGHDR. -/

namespace Sys2Proof.Machine

/-- The loop of `SPLIT_f` (45_chunk_splitter R260) from offset `off` and address `addr`. Each turn moves `off` by at
least one byte, so `fuel` of the buffer's length never runs out (log 13). -/
def splitLoop (N mx : Nat) : Nat → Nat → Nat → List Chunk
  | 0, _, _ => []
  | fuel + 1, addr, off =>
    if off < N then
      ⟨addr, off, min mx (N - off)⟩ :: splitLoop N mx fuel (addr + min mx (N - off) / 4) (off + min mx (N - off))
    else []

/-- `SPLIT_f(N, base, max)` (45_chunk_splitter R260, R261). -/
def splitF (N base mx : Nat) : Except Err (List Chunk) :=
  if 2 ^ Config.addrBits ≤ base then .error .addressOutOfRange
  else if mx = 0 ∨ mx % 4 ≠ 0 then .error .invalidChunkSize
  else if 2 ^ Config.addrBits < base + (N + 3) / 4 then .error .addressOutOfRange
  else .ok (splitLoop N mx N base 0)

/-- The reply of SPLIT (45_chunk_splitter R262). -/
def splitReply (s : State) : Reply :=
  withInput s fun B => replyOf (splitF B.length (baseOperand s) (maxChunkOperand s)) doneChunks

/-- SPLIT (45_chunk_splitter R262). -/
def execSplit (s : State) : Answer := answer s (splitReply s)

/-- The count field's value: the read word count, and 0 for a write (45_chunk_splitter R267). -/
def headerCount (d : Direction) (count : U64) : U64 :=
  match d with
  | .read => count
  | .write => 0

/-- `MSGHDR_f(d, addr, count, m)` (45_chunk_splitter R267). -/
def msghdrF (d : Direction) (addr count : U64) (m : LayoutMode) : Except Err (Buffer × Bool) :=
  match fieldSetF (zeros 4) 31 31 (BitVec.ofNat 64 d.code) m with
  | .error e => .error e
  | .ok q1 =>
    match fieldSetF q1.1 30 25 (headerCount d count) m with
    | .error e => .error e
    | .ok q2 =>
      match fieldSetF q2.1 24 4 addr m with
      | .error e => .error e
      | .ok q3 => .ok (q3.1, q1.2 || q2.2 || q3.2)

/-- The reply of MSGHDR (45_chunk_splitter R266). -/
def msghdrReply (d : Direction) (s : State) : Reply :=
  withMode s fun m =>
    replyOf (msghdrF d (wordAddressOperand s) (readCountOperand s) m) fun q => doneOut q.2 q.1

/-- MSGHDR (45_chunk_splitter R266). -/
def execMsghdr (d : Direction) (s : State) : Answer := answer s (msghdrReply d s)

end Sys2Proof.Machine
end

