-- ==== Sys2Proof/Machine/Validate.lean ====
section
/-! DEFINITION. Cross-table validation (44_container_framer R240 to R249) and the command CHECK_VALID. -/

namespace Sys2Proof.Machine

/-- The records of a role's table (44_container_framer R240: `TS.tbl[ROLE(a)]`). -/
def roleRecords (c : Config) (ts : TableSet) (a : Role) : List Record := ts.tbl.getD (roleIndex c.roles a) []

/-- `n_a`, the entry count of `ROLE(a)` (44_container_framer R240). -/
def roleCount (c : Config) (ts : TableSet) (a : Role) : Nat := (roleRecords c ts a).length

/-- The partition sizes one record declares, summed (44_container_framer R242). A slot that `PARTITION_FIELDS` lists
twice is added twice: DESIGN CHOICE (log 14), unsafe, since the spec does not say whether P13 is a list or a set. -/
def recordPartitions (r : Record) (fields : List Nat) : Nat := (fields.map (fun f => (r.getD f 0).toNat)).sum

/-- The partition sizes of one role's table, summed over its records (44_container_framer R242). -/
def rolePartitions (c : Config) (ts : TableSet) (v : Variant) (a : Role) : Nat :=
  ((roleRecords c ts a).map (fun r => recordPartitions r (partitionSlots c.partitions a v))).sum

/-- `mem(TS, v)` (44_container_framer R242): an unbounded natural sum. -/
def memSum (c : Config) (ts : TableSet) (v : Variant) : Nat :=
  rolePartitions c ts v .l2ForwardingParams + rolePartitions c ts v .vlForwardingParams

/-- A validation rule holds of a table set for a variant (44_container_framer R240). -/
def ruleHolds (c : Config) (ts : TableSet) (v : Variant) (r : ValidationRule) : Bool :=
  match r with
  | .impliesNonempty a b => decide (roleCount c ts a = 0) || decide (0 < roleCount c ts b)
  | .impliesExact a b k => decide (roleCount c ts a = 0) || decide (roleCount c ts b = k)
  | .countMin a k => decide (k ≤ roleCount c ts a)
  | .countExact a k => decide (roleCount c ts a = k)
  | .memoryBudget => decide (memSum c ts v ≤ budget c v)

/-- The rules 1 to 3 of 44_container_framer R241. -/
def scheduleRules : List ValidationRule :=
  [ .impliesNonempty .schedule .scheduleEntryPoints, .impliesExact .schedule .scheduleParams 1,
    .impliesExact .schedule .scheduleEntryPointsParams 1 ]

/-- The validation rule list (44_container_framer R241): SUB is the 1-based position. -/
def ruleList (c : Config) : List ValidationRule :=
  scheduleRules ++ requiredRules c.required ++ [.memoryBudget] ++ c.extraRules

/-- The position of the first rule of a list that does not hold, the list starting at position `i`. -/
def firstFailing (c : Config) (ts : TableSet) (v : Variant) : List ValidationRule → Nat → Option Nat
  | [], _ => none
  | r :: rs, i => if ruleHolds c ts v r then firstFailing c ts v rs (i + 1) else some i

/-- The reply of CHECK_VALID (44_container_framer R245). -/
def checkValidReply (s : State) : Reply :=
  replyOf (preflightF s.cfg s.slots.tables) fun v =>
    match firstFailing s.cfg s.slots.tables v (ruleList s.cfg) 1 with
    | some i => raising (.configValidationFailure i)
    | none => doneNothing

/-- CHECK_VALID (44_container_framer R245). -/
def execCheckValid (s : State) : Answer := answer s (checkValidReply s)

end Sys2Proof.Machine
end

