-- ==== Sys2Proof/Machine/Dispatch.lean ====
section
/-! DEFINITION. One arm per command of spec/opcode_table.json (30_encoding R98). -/

namespace Sys2Proof.Machine

def exec (i : Instr) (s : State) : Host.Outcome State Fault Refusal :=
  match i with
  | .setmode => Sys2Proof.Machine.execSetmode s
  | .getmode => Sys2Proof.Machine.execGetmode s
  | .fieldGet => Sys2Proof.Machine.execFieldGet s
  | .fieldSet => Sys2Proof.Machine.execFieldSet s
  | .crc32 => Sys2Proof.Machine.execCrc32 s
  | .entryDecode v => Sys2Proof.Machine.execEntryDecode v s
  | .entryEncode v => Sys2Proof.Machine.execEntryEncode v s
  | .unpack => Sys2Proof.Machine.execUnpack s
  | .pack => Sys2Proof.Machine.execPack s
  | .checkValid => Sys2Proof.Machine.execCheckValid s
  | .split => Sys2Proof.Machine.execSplit s
  | .msghdr d => Sys2Proof.Machine.execMsghdr d s

end Sys2Proof.Machine
end

