-- ==== Sys2Proof/Machine/Step.lean ====
section
/-! DEFINITION. One step: the block takes the host's oldest input and acts on it (20_memory R66, R71). -/

namespace Sys2Proof.Machine

/-- One step (00_scope R3): a command is one atomic step; a reset event is one step; with no input nothing changes. -/
def step (s : State) : Host.Outcome State Fault Refusal :=
  match fetch s with
  | .nothing => idle s
  | .wasReset t => .next t
  | .illegal t => illegalCommand t
  | .run i t => exec i t

/-- `s` with the command word `w` as the next input the block takes, so that the very next step runs it. The word has
32 bits (30_encoding R90, R100), so no bit stands above `nbits`, and the operand slots stay (log 12). -/
def State.withFetchWord (s : State) (nbits w : Nat) : State :=
  { s with pending := placeWord s (BitVec.ofNat 32 (w % 2 ^ nbits)) }

end Sys2Proof.Machine
end

