-- ==== Sys2Proof/Machine/Pseudo.lean ====
section
/-! DEFINITION. What the host writes and the flows it drives: the command each assembly form stands for
(30_encoding R101), the pseudo-instructions (R102), the upload and load flows (70_reset R324) and the message a
transport sends for a chunk (45_chunk_splitter R268). The block takes part in none of the host's choices. -/

namespace Sys2Proof.Machine

/-- The command of an instruction with the given slots (30_encoding R90, R92). -/
def commandOf (i : Instr) (slots : Slots) : Command := ⟨encode i, slots⟩

/-- `SETMODE mode` (30_encoding R101). -/
def asmSetmode (mode : U64) : Command := commandOf .setmode { Slots.empty with a0 := mode }

/-- `GETMODE` (30_encoding R101). -/
def asmGetmode : Command := commandOf .getmode Slots.empty

/-- `FIELD_GET IN, msb, lsb` (30_encoding R101). -/
def asmFieldGet (B : Buffer) (msb lsb : U64) : Command :=
  commandOf .fieldGet { Slots.empty with inBuf := B, a0 := msb, a1 := lsb }

/-- `FIELD_SET IN, msb, lsb, value` (30_encoding R101). -/
def asmFieldSet (B : Buffer) (msb lsb value : U64) : Command :=
  commandOf .fieldSet { Slots.empty with inBuf := B, a0 := msb, a1 := lsb, a2 := value }

/-- `CRC32 IN` (30_encoding R101). -/
def asmCrc32 (B : Buffer) : Command := commandOf .crc32 { Slots.empty with inBuf := B }

/-- `ENTRY_DECODE.v blkid, IN` (30_encoding R101). -/
def asmEntryDecode (v : Variant) (bid : U64) (B : Buffer) : Command :=
  commandOf (.entryDecode v) { Slots.empty with a0 := bid, inBuf := B }

/-- `ENTRY_ENCODE.v blkid, {r0, r1, ...}` (30_encoding R101). -/
def asmEntryEncode (v : Variant) (bid : U64) (r : Record) : Command :=
  commandOf (.entryEncode v) { Slots.empty with a0 := bid, record := r }

/-- `UNPACK IN` (30_encoding R101). -/
def asmUnpack (B : Buffer) : Command := commandOf .unpack { Slots.empty with inBuf := B }

/-- `PACK TS, placeholder` (30_encoding R101). -/
def asmPack (ts : TableSet) (ph : U64) : Command := commandOf .pack { Slots.empty with tables := ts, a0 := ph }

/-- `CHECK_VALID TS` (30_encoding R101). -/
def asmCheckValid (ts : TableSet) : Command := commandOf .checkValid { Slots.empty with tables := ts }

/-- `SPLIT IN, base, max` (30_encoding R101). -/
def asmSplit (B : Buffer) (base mx : U64) : Command :=
  commandOf .split { Slots.empty with inBuf := B, a0 := base, a1 := mx }

/-- `MSGHDR.rd addr, count` (30_encoding R101). -/
def asmMsghdrRd (addr count : U64) : Command := commandOf (.msghdr .read) { Slots.empty with a0 := addr, a1 := count }

/-- `MSGHDR.wr addr` (30_encoding R101). -/
def asmMsghdrWr (addr : U64) : Command := commandOf (.msghdr .write) { Slots.empty with a0 := addr }

/-- `STORE32 x` expands to `FIELD_SET zeros(4), 31, 0, x` (30_encoding R102). -/
def pseudoStore32 (x : U64) : Command := asmFieldSet (zeros 4) 31 0 x

/-- `LOAD32 S` expands to `FIELD_GET S, 31, 0` (30_encoding R102). -/
def pseudoLoad32 (S : Buffer) : Command := asmFieldGet S 31 0

/-- The host issues `c` and the block executes it as its next step (00_scope R3). -/
def issue (c : Command) (s : State) : Answer := step { s with pending := .command c :: s.pending }

/-- `STATUS` of the last response was OK, as the `?` of 30_encoding R102 asks. -/
def lastOk (s : State) : Bool :=
  match s.resp with
  | some r => decide (r.status = 0)
  | none => false

/-- `OUT` of the last response, as in `SPLIT OUT, base, max` (30_encoding R102). -/
def lastOut (s : State) : Buffer :=
  match s.resp with
  | some r => r.results.out
  | none => []

/-- `?`: the host goes on with `k` only if the previous `STATUS` was OK, and stops otherwise (30_encoding R102). -/
def ifOk (a : Answer) (k : State → Answer) : Answer :=
  match a with
  | .next t => if lastOk t then k t else .next t
  | .fault f => .fault f
  | .refused r => .refused r

/-- `PREPARE_UPLOAD TS, ph, base, max` expands to `CHECK_VALID TS ? PACK TS, ph ? SPLIT OUT, base, max`
(30_encoding R102, 70_reset R324). -/
def prepareUpload (ts : TableSet) (ph base mx : U64) (s : State) : Answer :=
  ifOk (issue (asmCheckValid ts) s) fun t =>
    ifOk (issue (asmPack ts ph) t) fun u => issue (asmSplit (lastOut u) base mx) u

/-- The slice a chunk stands for, `IN[off : off+len]` (30_encoding R96). -/
def chunkSlice (B : Buffer) (c : Chunk) : Buffer := slice B c.off c.len

/-- The header command for a chunk, `MSGHDR.wr addr` (45_chunk_splitter R268). -/
def chunkHeader (c : Chunk) : Command := asmMsghdrWr (BitVec.ofNat 64 c.addr)

/-- The header command for a read of `w` words at word address `a`, `MSGHDR.rd a, w` (45_chunk_splitter R268). -/
def readHeaderCommand (a w : U64) : Command := asmMsghdrRd a w

end Sys2Proof.Machine
end

