-- ==== Sys2Proof/Safety.lean ====
section
/-! DEFINITION. What a safe run of the block is, and the words claims about it are stated in: the invariant every step
keeps, when a command is ready to run, how an outcome is written out, and the standard reflected CRC-32 that
42_crc32 R177 compares the block's CRC with. -/

namespace Sys2Proof.Machine

/-- A response as the spec allows it under configuration `c`: RESP[31:18] = 0 (30_encoding R93); `STATUS` at most 14
(60_exceptions R291); `SUB` 0 unless `STATUS` is 7, and then a position of the rule list (60_exceptions R294); no
result beside an error (60_exceptions R296); every chunk address a u21 (30_encoding R96). -/
abbrev ResponseLegal (c : Config) (r : Response) : Prop :=
  r.reserved = 0 ∧ r.status ≤ 14 ∧ (r.status ≠ 7 → r.sub = 0) ∧
    (r.status = 7 → 1 ≤ r.sub ∧ r.sub ≤ 11 + c.extraRules.length) ∧ (r.status ≠ 0 → r.results = Results.empty) ∧
    (∀ k ∈ r.results.chunks, k.addr < 2 ^ 21)

/-- The invariant: while `LAYOUT_SET` is 0, `LAYOUT` still holds its reset value (10_state R35, R40), and the response
returned last is legal. -/
abbrev Inv (s : State) : Prop :=
  (s.layoutSet = false → s.layout = 0) ∧ (∀ r ∈ s.resp.toList, ResponseLegal s.cfg r)

/-- The configuration is one the model is built for (00_scope R12, 60_exceptions R311). -/
abbrev ConfigOk (s : State) : Prop := wfConfig s.cfg = true

/-- The Layout Mode is established (10_state R35). -/
abbrev ModeSet (s : State) : Prop := s.layoutSet = true

/-- `IN` is no longer than `MAX_BUF_BYTES` (20_memory R62). -/
abbrev InputFits (s : State) : Prop := ∀ k ∈ s.cfg.maxBufBytes.toList, s.slots.inBuf.length ≤ k

/-- `n` bytes are no more than `MAX_BUF_BYTES` (20_memory R62). -/
abbrev SizeFits (c : Config) (n : Nat) : Prop := ∀ k ∈ c.maxBufBytes.toList, n ≤ k

/-- Ready for a command that reads `IN` through the accessor (60_exceptions R300 steps 2 and 3). -/
abbrev ReadyToRead (s : State) : Prop := ConfigOk s ∧ ModeSet s ∧ InputFits s

/-- The response word of 30_encoding R93 written out. -/
def responseWord (status sub warn : Nat) : U32 := BitVec.ofNat 32 (status + sub * 2 ^ 8 + warn * 2 ^ 16)

/-- The command changed nothing but the response, which is OK with the given warnings and results. -/
def endsOk (s : State) (warn : Nat) (r : Results) : Answer :=
  .next { s with resp := some ⟨responseWord 0 0 warn, r⟩ }

/-- The command changed nothing but the response, which is an error with no result (60_exceptions R296). -/
def endsError (s : State) (status sub warn : Nat) : Answer :=
  .next { s with resp := some ⟨responseWord status sub warn, Results.empty⟩ }

/-- The eight commands that use the accessor (10_state R35). -/
def usesAccessor : Instr → Bool
  | .setmode => false
  | .getmode => false
  | .fieldGet => true
  | .fieldSet => true
  | .crc32 => true
  | .entryDecode _ => true
  | .entryEncode _ => true
  | .unpack => true
  | .pack => true
  | .checkValid => false
  | .split => false
  | .msghdr _ => true

/-- The operand bits 30_encoding R94 says must be 0 are 0 for this command. -/
def operandBitsLegal (i : Instr) (s : Slots) : Bool :=
  match i with
  | .setmode => decide (s.a0.toNat < 2 ^ 8)
  | .pack => decide (s.a0.toNat < 2 ^ 32)
  | _ => true

/-- The operand slots a command takes, every other one empty (30_encoding R92, R94). -/
def keepUsed (i : Instr) (s : Slots) : Slots :=
  match i with
  | .setmode => { Slots.empty with a0 := s.a0 }
  | .getmode => Slots.empty
  | .fieldGet => { Slots.empty with a0 := s.a0, a1 := s.a1, inBuf := s.inBuf }
  | .fieldSet => { Slots.empty with a0 := s.a0, a1 := s.a1, a2 := s.a2, inBuf := s.inBuf }
  | .crc32 => { Slots.empty with inBuf := s.inBuf }
  | .entryDecode _ => { Slots.empty with a0 := s.a0, inBuf := s.inBuf }
  | .entryEncode _ => { Slots.empty with a0 := s.a0, record := s.record }
  | .unpack => { Slots.empty with inBuf := s.inBuf }
  | .pack => { Slots.empty with a0 := s.a0, tables := s.tables }
  | .checkValid => { Slots.empty with tables := s.tables }
  | .split => { Slots.empty with a0 := s.a0, a1 := s.a1, inBuf := s.inBuf }
  | .msghdr _ => { Slots.empty with a0 := s.a0, a1 := s.a1 }

/-- The four conditions of 30_encoding R99 on the command word, spelled out over its bits. -/
abbrev illegalWord (w : U32) : Prop :=
  w.toNat % 256 ∉ [0x01, 0x02, 0x10, 0x11, 0x20, 0x30, 0x31, 0x40, 0x41, 0x42, 0x50, 0x51] ∨
    w.toNat / 2 ^ 10 ≠ 0 ∨ (w.getLsbD 8 = true ∧ w.toNat % 256 ∉ [0x30, 0x31]) ∨
    (w.getLsbD 9 = true ∧ w.toNat % 256 ≠ 0x51)

/-- The logical bit `p` of a buffer under a mode (41_field_accessor R141 to R143). -/
def logicalBit (B : Buffer) (m : LayoutMode) (p : Nat) : Bool := bufBit B (physBit p B.length m)

/-- A field passes the checks of 41_field_accessor R140. -/
abbrev FieldLegal (L msb lsb : Nat) (m : LayoutMode) : Prop :=
  lsb ≤ msb ∧ msb - lsb + 1 ≤ 64 ∧ msb < 8 * L ∧ ((m.getLsbD 1 = true ∨ m.getLsbD 2 = true) → L % 4 = 0)

/-- A catalog table with block id `bid` that has form `f` under variant `v` (43_entry_codec R191). -/
abbrev HasTable (c : Config) (bid : Nat) (v : Variant) (f : TableForm) : Prop :=
  ∃ t ∈ c.catalog, t.blockId = bid ∧ formOf t v = some f

/-- One bit-serial step of the reflected CRC-32: the polynomial 0x04C11DB7 reflected (42_crc32 R177). -/
def reflectedStep (c : U32) : U32 := if c.getLsbD 0 then (c >>> 1) ^^^ 0xEDB88320 else c >>> 1

/-- One byte into the reflected CRC-32 (42_crc32 R177). -/
def reflectedByte (c : U32) (b : Byte) : U32 :=
  reflectedStep (reflectedStep (reflectedStep (reflectedStep
    (reflectedStep (reflectedStep (reflectedStep (reflectedStep (c ^^^ b.setWidth 32))))))))

/-- The standard CRC-32 of a byte sequence: reflected, initial value and final XOR 0xFFFFFFFF (42_crc32 R177). -/
def standardCrc (B : Buffer) : U32 := B.foldl reflectedByte 0xFFFFFFFF ^^^ 0xFFFFFFFF

/-- `B` with the 4 bytes of each word reversed: B[3], B[2], B[1], B[0], B[7], ... (42_crc32 R177). -/
def reverseEachWord : Buffer → Buffer
  | b0 :: b1 :: b2 :: b3 :: rest => b3 :: b2 :: b1 :: b0 :: reverseEachWord rest
  | rest => rest

/-- `B` with every byte bit-reversed (42_crc32 R177). -/
def mirrorEachByte (B : Buffer) : Buffer := B.map (fun b => b.reverse)

/-- The bytes the standard CRC-32 takes under a mode (42_crc32 R177): reversed in each word without BSWAP,
bit-reversed with MIRROR; WREV has no effect. -/
def crcBytes (B : Buffer) (m : LayoutMode) : Buffer :=
  let C := if m.getLsbD 0 then mirrorEachByte B else B
  if m.getLsbD 1 then C else reverseEachWord C

/-- The buffer of a successful inner function; empty for a failed one. -/
def bufferOr (r : Except Err Buffer) : Buffer :=
  match r with
  | .ok b => b
  | .error _ => []

/-- Bytes followed by their stored CRC, as a header and a table's entries stand in an image (44_container_framer R212,
R213). -/
def withCrc (B : Buffer) (m : LayoutMode) : Buffer := B ++ bufferOr (storedCrc B m)

/-- The bytes of a packed table's entries (44_container_framer R213). -/
def entryBytes (f : TableForm) (m : LayoutMode) (recs : List Record) : Buffer :=
  recs.flatMap fun r =>
    match entryEncodeF f r m with
    | .ok x => x.1
    | .error _ => []

/-- The bytes of one table block (44_container_framer R213): nothing for an empty table. -/
def tableBlock (c : Config) (v : Variant) (m : LayoutMode) (t : TableDesc) (recs : List Record) : Buffer :=
  match formOf t v with
  | none => []
  | some f =>
    if recs.length = 0 then []
    else
      withCrc (bufferOr (hdrF c t.blockId (recs.length * f.size / 4) m)) m ++ withCrc (entryBytes f m recs) m

/-- The Configuration Image of 44_container_framer R213. -/
def imageLayout (c : Config) (v : Variant) (m : LayoutMode) (ts : TableSet) (ph : U32) : Buffer :=
  bufferOr (u32F ts.dev m) ++
    (c.catalog.zip ts.tbl).flatMap (fun p => tableBlock c v m p.1 p.2) ++
    (bufferOr (hdrF c 0 0 m) ++ bufferOr (u32F ph m))

/-- The length of a table's entries in an image, with its header and CRCs (44_container_framer R214). -/
def blockLength (v : Variant) (t : TableDesc) (recs : List Record) : Nat :=
  match formOf t v with
  | none => 0
  | some f => if recs.length = 0 then 0 else 16 + recs.length * f.size

/-- The image length of 44_container_framer R214. -/
def imageLength (c : Config) (v : Variant) (ts : TableSet) : Nat :=
  4 + ((c.catalog.zip ts.tbl).map (fun p => blockLength v p.1 p.2)).sum + 12

/-- A slot's value exceeds its field's width (43_entry_codec R194). -/
def slotExceeds (f : FieldDesc) (x : U64) : Bool := decide (2 ^ f.width ≤ x.toNat)

/-- Some slot of a record exceeds its field's width (43_entry_codec R196). -/
def recordExceeds (f : TableForm) (r : Record) : Bool := (f.schema.zip r).any (fun p => slotExceeds p.1 p.2)

/-- A record with every slot reduced to its field's width (43_entry_codec R194). -/
def maskRecord (f : TableForm) (r : Record) : Record :=
  (f.schema.zip r).map (fun p => BitVec.ofNat 64 (p.2.toNat % 2 ^ p.1.width))

/-- A table's records with every slot reduced to its field's width (44_container_framer R233). -/
def maskTable (v : Variant) (t : TableDesc) (recs : List Record) : List Record :=
  match formOf t v with
  | none => recs
  | some f => recs.map (maskRecord f)

/-- A table set with every slot reduced to its field's width (44_container_framer R233). -/
def maskTables (c : Config) (v : Variant) (ts : TableSet) : TableSet :=
  { ts with tbl := (c.catalog.zip ts.tbl).map (fun p => maskTable v p.1 p.2) }

/-- Some record slot of a table set exceeds its field's width (44_container_framer R215). -/
def tablesExceed (c : Config) (v : Variant) (ts : TableSet) : Bool :=
  (c.catalog.zip ts.tbl).any fun p =>
    match formOf p.1 v with
    | none => false
    | some f => p.2.any (recordExceeds f)

/-- `DEVICE_IDS` maps `dev` to `v` (44_container_framer R211). -/
abbrev DeviceMaps (c : Config) (dev : U32) (v : Variant) : Prop :=
  ∃ d ∈ deviceList c.deviceIds, d.ident = dev ∧ d.variant = v

/-- One table of a table set passes the checks of 44_container_framer R216 for variant `v`. -/
def tableFine (v : Variant) (t : TableDesc) (recs : List Record) : Prop :=
  recs.length ≤ t.maxCount ∧
    (recs.length = 0 ∨ ∃ f, formOf t v = some f ∧ ∀ r ∈ recs, r.length = f.schema.length)

/-- A table set passes every check of 44_container_framer R216, and `v` is its variant. -/
def TableSetLegal (c : Config) (v : Variant) (ts : TableSet) : Prop :=
  DeviceMaps c ts.dev v ∧ ts.tbl.length = c.catalog.length ∧ ∀ p ∈ c.catalog.zip ts.tbl, tableFine v p.1 p.2

/-- A table block as it stands in an image: the table its header names, the header's first 8 bytes and the bytes it
declares (44_container_framer R212, R213, R229). The header's bits outside its two fields may hold anything, and the
declared bytes need be no whole number of entries. -/
structure ImageBlock where
  table : TableDesc
  header : Buffer
  body : Buffer
  deriving DecidableEq, Repr

/-- The bytes of a block: header and header CRC, declared bytes and data CRC (44_container_framer R213). -/
def blockBytes (m : LayoutMode) (d : ImageBlock) : Buffer := withCrc d.header m ++ withCrc d.body m

/-- The bytes of a list of blocks, one after another (44_container_framer R213). -/
def blocksBytes (m : LayoutMode) (ds : List ImageBlock) : Buffer := ds.flatMap (blockBytes m)

/-- 8 bytes read as a header with block id `bid` and length field `lenw`; every other bit of them is ignored
(44_container_framer R212). -/
abbrev ReadsAsHeader (c : Config) (m : LayoutMode) (H8 : Buffer) (bid lenw : Nat) : Prop :=
  H8.length = 8 ∧ hbidF c H8 m = .ok (BitVec.ofNat 64 bid) ∧ hlenF c H8 m = .ok (BitVec.ofNat 64 lenw)

/-- A block that UNPACK accepts for variant `v`: a catalog table present for `v`, a positive whole number of words that
the length field can hold, a header that names the table and that length, and at most `max_count` whole entries
(44_container_framer R212, R228, R229). -/
def BlockLegal (c : Config) (v : Variant) (m : LayoutMode) (d : ImageBlock) : Prop :=
  d.table ∈ c.catalog ∧ d.body.length % 4 = 0 ∧ 0 < d.body.length ∧ d.body.length / 4 < 2 ^ c.hdrLen.width ∧
    ReadsAsHeader c m d.header d.table.blockId (d.body.length / 4) ∧
    ∃ f, formOf d.table v = some f ∧ d.body.length / f.size ≤ d.table.maxCount

/-- Blocks that UNPACK accepts one after another, in any order: no two of one table (44_container_framer R228). -/
def BlocksLegal (c : Config) (v : Variant) (m : LayoutMode) (ds : List ImageBlock) : Prop :=
  (∀ d ∈ ds, BlockLegal c v m d) ∧ (ds.map (fun d => d.table.blockId)).Nodup

/-- The whole entries of a block, decoded in order (44_container_framer R225 step 4, R229). -/
def blockRecords (v : Variant) (m : LayoutMode) (d : ImageBlock) : List Record :=
  match formOf d.table v with
  | none => []
  | some f =>
    (List.range (d.body.length / f.size)).map fun n =>
      match entryDecodeF f ((d.body.drop (n * f.size)).take f.size) m with
      | .ok r => r
      | .error _ => []

/-- A block's declared bytes are no whole number of entries (44_container_framer R230). -/
def blockRemainder (v : Variant) (d : ImageBlock) : Bool :=
  match formOf d.table v with
  | none => false
  | some f => decide (d.body.length % f.size ≠ 0)

/-- `WARN` after a list of blocks: TableLengthMismatch when one of them has a remainder (44_container_framer R230). -/
def blocksWarn (v : Variant) (ds : List ImageBlock) : Nat := if ds.any (blockRemainder v) then 2 else 0

/-- The tables in `CATALOG` order, each with the entries of its block, and empty without one
(44_container_framer R228, R232). -/
def gatherBlocks (c : Config) (v : Variant) (m : LayoutMode) (ds : List ImageBlock) : List (List Record) :=
  c.catalog.map fun t =>
    match ds.find? (fun d => d.table.blockId == t.blockId) with
    | none => []
    | some d => blockRecords v m d

/-- The entry count of the table at a `CATALOG` index (44_container_framer R240). -/
def entryCount (ts : TableSet) (k : Nat) : Nat := (ts.tbl.getD k []).length

/-- A count meets `MIN k` or `EXACT k` (44_container_framer R240, R241). -/
def countMet (q : CountReq) (n : Nat) : Bool :=
  match q with
  | .min k => decide (k ≤ n)
  | .exact k => decide (n = k)

/-- The partition sizes of the table at a `CATALOG` index, over its records and the given slots, a slot listed twice
counted twice (44_container_framer R242; log 14). -/
def tablePartitions (ts : TableSet) (k : Nat) (fields : List Nat) : Nat :=
  ((ts.tbl.getD k []).map (fun r => (fields.map (fun f => (r.getD f 0).toNat)).sum)).sum

/-- `mem(TS, v)` written out (44_container_framer R242). -/
def partitionTotal (c : Config) (ts : TableSet) (v : Variant) : Nat :=
  match v with
  | .v0 => tablePartitions ts c.roles.l2ForwardingParams c.partitions.l2V0 +
      tablePartitions ts c.roles.vlForwardingParams c.partitions.vlV0
  | .v1 => tablePartitions ts c.roles.l2ForwardingParams c.partitions.l2V1 +
      tablePartitions ts c.roles.vlForwardingParams c.partitions.vlV1

/-- The partition sizes are within the variant's frame-memory budget: `SUB` 11 (44_container_framer R240, R241). -/
def withinBudget (c : Config) (ts : TableSet) (v : Variant) : Bool :=
  match v with
  | .v0 => decide (partitionTotal c ts .v0 ≤ c.budgetV0)
  | .v1 => decide (partitionTotal c ts .v1 ≤ c.budgetV1)

/-- The conditions of `SUB` 1 to 3 (44_container_framer R241). -/
def scheduleConditions (c : Config) (ts : TableSet) : List Bool :=
  [ decide (0 < entryCount ts c.roles.schedule → 0 < entryCount ts c.roles.scheduleEntryPoints),
    decide (0 < entryCount ts c.roles.schedule → entryCount ts c.roles.scheduleParams = 1),
    decide (0 < entryCount ts c.roles.schedule → entryCount ts c.roles.scheduleEntryPointsParams = 1) ]

/-- The conditions of `SUB` 4 to 10 (44_container_framer R241). -/
def requiredConditions (c : Config) (ts : TableSet) : List Bool :=
  [ countMet c.required.l2Policing (entryCount ts c.roles.l2Policing),
    countMet c.required.vlanLookup (entryCount ts c.roles.vlanLookup),
    countMet c.required.l2Forwarding (entryCount ts c.roles.l2Forwarding),
    countMet c.required.macConfig (entryCount ts c.roles.macConfig),
    countMet c.required.l2ForwardingParams (entryCount ts c.roles.l2ForwardingParams),
    countMet c.required.generalParams (entryCount ts c.roles.generalParams),
    countMet c.required.xmiiParams (entryCount ts c.roles.xmiiParams) ]

/-- The condition of one of `EXTRA_RULES`, by its kind (44_container_framer R240). -/
def extraCondition (c : Config) (ts : TableSet) (v : Variant) (q : ValidationRule) : Bool :=
  match q with
  | .impliesNonempty a b =>
    decide (0 < entryCount ts (roleIndex c.roles a) → 0 < entryCount ts (roleIndex c.roles b))
  | .impliesExact a b k => decide (0 < entryCount ts (roleIndex c.roles a) → entryCount ts (roleIndex c.roles b) = k)
  | .countMin a k => countMet (.min k) (entryCount ts (roleIndex c.roles a))
  | .countExact a k => countMet (.exact k) (entryCount ts (roleIndex c.roles a))
  | .memoryBudget => withinBudget c ts v

/-- The conditions of the validation rule list, in the order of 44_container_framer R241, written out over entry counts
and partition sizes: the one at 0-based place `k` is that of `SUB` = `k + 1`. -/
def ruleConditions (c : Config) (ts : TableSet) (v : Variant) : List Bool :=
  scheduleConditions c ts ++ requiredConditions c ts ++ [withinBudget c ts v] ++ c.extraRules.map (extraCondition c ts v)

/-- The statuses 60_exceptions R291 lets a command with a legal word return (column "raised by"). -/
def allowedStatuses : Instr → List Nat
  | .setmode => [0, 8]
  | .getmode => [0]
  | .fieldGet => [0, 1, 9, 10]
  | .fieldSet => [0, 1, 9, 10]
  | .crc32 => [0, 9, 10]
  | .entryDecode _ => [0, 2, 9, 10]
  | .entryEncode _ => [0, 2, 9, 10]
  | .unpack => [0, 2, 3, 4, 5, 6, 9, 10, 11, 12]
  | .pack => [0, 2, 5, 6, 8, 9, 10]
  | .checkValid => [0, 2, 5, 6, 7, 10]
  | .split => [0, 10, 13, 14]
  | .msghdr _ => [0, 9]

/-- The values of `WARN` 60_exceptions R292 lets a command return (column "set by"). -/
def allowedWarnings : Instr → List Nat
  | .fieldSet => [0, 1]
  | .entryEncode _ => [0, 1]
  | .pack => [0, 1]
  | .msghdr _ => [0, 1]
  | .unpack => [0, 2]
  | _ => [0]

end Sys2Proof.Machine
end

