-- ==== Sys2Proof/Certificates/Slice0/Obligations.lean ====
section
/-! DEFINITION. The statements for the provers. Each is a claim about the block taken from the numbered rules its
docstring names; OBLIGATIONS.json lists them. A configuration is always a variable: none rests on the configuration
`State.reset` holds (log 1). -/

open Sys2Proof Sys2Proof.Machine

/-! ### Reset, fetching and decoding -/

/-- 70_reset R320: a new model instance and a later reset event leave `LAYOUT` = 0b000 and `LAYOUT_SET` = 0, and no
command takes an established block back. -/
def Obligations.ResetPutsTheModeToItsResetValue : Prop :=
  (∀ c : Config, (State.resetWith c).layout = 0b000 ∧ (State.resetWith c).layoutSet = false) ∧
    (∀ s rest, s.pending = .resetEvent :: rest →
      ∃ t, step s = .next t ∧ t.layout = 0b000 ∧ t.layoutSet = false) ∧
    (∀ i s t, exec i s = .next t → s.layoutSet = true → t.layoutSet = true)

/-- 70_reset R322, which the spec marks derived: after reset and before the first SETMODE. -/
def Obligations.AfterResetOnlyTheAccessorCommandsWait : Prop :=
  ∀ (c : Config) (sl : Slots), wfConfig c = true →
    let s : State := { State.resetWith c with slots := sl }
    exec .getmode s = endsOk s 0 Results.empty ∧
      (∀ i, usesAccessor i = true → operandBitsLegal i sl = true → exec i s = endsError s 9 0 0) ∧
      (sl.a0.toNat < 8 →
        exec .setmode s = endsOk { s with layout := BitVec.ofNat 3 sl.a0.toNat, layoutSet := true } 0 Results.empty) ∧
      (∀ i ∈ [Instr.checkValid, Instr.split], ∀ m : LayoutMode,
        ∃ t u, exec i s = .next t ∧ exec i { s with layout := m, layoutSet := true } = .next u ∧ t.resp = u.resp) ∧
      (∀ (w : U32) (rest : List Input), illegalWord w →
        step { State.resetWith c with pending := .command ⟨w, sl⟩ :: rest } =
          endsError { State.resetWith c with slots := sl, pending := rest } 8 0 0)

/-- 30_encoding R99: an illegal command word, or an operand bit that must be 0 and is not, raises InvalidCommand with
no other effect, whatever the mode. -/
def Obligations.IllegalCommandsRaiseInvalidCommand : Prop :=
  ∀ (s : State) (c : Command) (rest : List Input), ConfigOk s → s.pending = .command c :: rest →
    (illegalWord c.word ∨ (c.word = 0x00000001 ∧ ¬ c.slots.a0.toNat < 2 ^ 8) ∨
      (c.word = 0x00000041 ∧ ¬ c.slots.a0.toNat < 2 ^ 32)) →
    step s = endsError { s with slots := c.slots, pending := rest } 8 0 0

/-- 30_encoding R98: decoding and encoding agree, on every word and every instruction. -/
def Obligations.DecodeAcceptsExactlyTheEncodedWords : Prop :=
  ∀ (w : U32) (i : Instr), decode w = .ok i ↔ w = encode i

/-- 30_encoding R98, R99: a word is illegal by the conditions of R99 exactly when it is no command's word. -/
def Obligations.IllegalWordsAreTheWordsOfNoCommand : Prop :=
  ∀ w : U32, illegalWord w ↔ ∀ i : Instr, w ≠ encode i

/-- 30_encoding R98: words of every family, written out from the opcode map. -/
def Obligations.SampleWordsDecodeAsTheMapSays : Prop :=
  decode 0x00000001 = .ok .setmode ∧ decode 0x00000010 = .ok .fieldGet ∧ decode 0x00000020 = .ok .crc32 ∧
    decode 0x00000130 = .ok (.entryDecode .v1) ∧ decode 0x00000041 = .ok .pack ∧ decode 0x00000050 = .ok .split ∧
    decode 0x00000251 = .ok (.msghdr .write)

/-- 00_scope R3, 20_memory R71: when the oldest input is a command whose word decodes to `i`, the step runs `i` on the
operand slots that came with it, and the input is gone. The queue of inputs is the model's (log 2), and so is what a
reset event does to the slots and the last response (log 5). -/
def Obligations.StepRunsTheDecodedCommand : Prop :=
  (∀ (s : State) (c : Command) (rest : List Input) (i : Instr),
    s.pending = .command c :: rest → decode c.word = .ok i →
      step s = exec i { s with slots := c.slots, pending := rest }) ∧
    (∀ (s : State) (rest : List Input), s.pending = .resetEvent :: rest →
      step s = .next { State.resetWith s.cfg with pending := rest })

/-- The word placed by `withFetchWord` is the one the next step runs, on the slots as they stand (log 12). -/
def Obligations.PlacedWordRunsNext : Prop :=
  ∀ (s : State) (i : Instr), s.pending = [] → step (s.withFetchWord 32 (encode i).toNat) = exec i s

/-- With no input a step changes nothing: the model's choice (log 3), from 60_exceptions R303 and R310. -/
def Obligations.StepWithoutInputChangesNothing : Prop :=
  ∀ s : State, s.pending = [] → step s = .next s

/-! ### Whole-machine rules -/

/-- 10_state R35, R40; 30_encoding R93, R96; 60_exceptions R291, R294, R296: every step keeps the invariant. -/
def Obligations.EveryStepKeepsTheInvariant : Prop :=
  ∀ s t : State, Inv s → step s = .next t → Inv t

/-- 10_state R40: every model instance meets the invariant at reset. -/
def Obligations.ResetMeetsTheInvariant : Prop :=
  ∀ c : Config, Inv (State.resetWith c)

/-- 10_state R32: no step changes the configuration. -/
def Obligations.StepsNeverChangeTheConfiguration : Prop :=
  ∀ s t : State, step s = .next t → t.cfg = s.cfg

/-- 10_state R30, R31, R34: the frame of every command but SETMODE: nothing but the response changes. -/
def Obligations.OtherCommandsChangeOnlyTheResponse : Prop :=
  ∀ (i : Instr) (s t : State), i ≠ .setmode → exec i s = .next t → t = { s with resp := t.resp }

/-- 10_state R30, R31; 40_mode_control R120: the frame of SETMODE: the mode, its flag and the response. -/
def Obligations.SetmodeChangesOnlyTheModeAndTheResponse : Prop :=
  ∀ s t : State, exec .setmode s = .next t →
    t = { s with layout := t.layout, layoutSet := t.layoutSet, resp := t.resp }

/-- 00_scope R3, 60_exceptions R290, R301: under a well-formed configuration (log 6) every command answers a response and
every step ends in a next state: nothing stops the block. That a step without input does is the model's choice
(log 3). -/
def Obligations.NothingStopsAWellFormedBlock : Prop :=
  (∀ (i : Instr) (s : State), ConfigOk s → ∃ t r, exec i s = .next t ∧ t.resp = some r) ∧
    (∀ s : State, ConfigOk s → ∃ t, step s = .next t)

/-- 60_exceptions R311: an ill-formed catalog refuses every command. -/
def Obligations.IllFormedCatalogRefusesEveryCommand : Prop :=
  (∀ (i : Instr) (s : State), wfCat s.cfg = false → exec i s = .refused .illFormedCatalog) ∧
    (∀ (s : State) (c : Command) (rest : List Input), wfCat s.cfg = false → s.pending = .command c :: rest →
      step s = .refused .illFormedCatalog)

/-- 20_memory R68, which the spec marks derived: repeating a command repeats its response and changes nothing further,
and no command changes the buffers it was given. -/
def Obligations.CommandsAreIdempotent : Prop :=
  ∀ (i : Instr) (s t : State), exec i s = .next t → t.slots = s.slots ∧ exec i t = .next t

/-- 10_state R31, R36: what a command answers depends on the configuration, the mode and its operands alone; no earlier
response and no later input reaches it. -/
def Obligations.OnlyModeAndOperandsReachACommand : Prop :=
  ∀ (i : Instr) (s u t : State), u.cfg = s.cfg → u.layout = s.layout → u.layoutSet = s.layoutSet → u.slots = s.slots →
    exec i s = .next t →
    ∃ t', exec i u = .next t' ∧ t'.resp = t.resp ∧ t'.layout = t.layout ∧ t'.layoutSet = t.layoutSet

/-- 30_encoding R92, R94: a slot that a command does not use is ignored, whatever it holds. -/
def Obligations.UnusedSlotsAreIgnored : Prop :=
  ∀ (i : Instr) (s t : State), exec i s = .next t →
    ∃ u, exec i { s with slots := keepUsed i s.slots } = .next u ∧ u.resp = t.resp ∧ u.layout = t.layout ∧
      u.layoutSet = t.layoutSet

/-- 10_state R35: `LAYOUT_SET` and what it gates. -/
def Obligations.AccessorCommandsNeedTheModeSet : Prop :=
  (∀ c : Config, (State.resetWith c).layoutSet = false) ∧
    (∀ s : State, ConfigOk s → s.slots.a0.toNat < 8 → ∃ t, exec .setmode s = .next t ∧ t.layoutSet = true) ∧
    (∀ i s t, exec i s = .next t → s.layoutSet = true → t.layoutSet = true) ∧
    (∀ s t rest, s.pending = .resetEvent :: rest → step s = .next t → t.layoutSet = false) ∧
    (∀ (i : Instr) (s : State), ConfigOk s → s.layoutSet = false → usesAccessor i = true →
      operandBitsLegal i s.slots = true → exec i s = endsError s 9 0 0) ∧
    (∀ (i : Instr) (s t : State) (r : Response), usesAccessor i = false → exec i s = .next t → t.resp = some r →
      r.status ≠ 9)

/-- 60_exceptions R291, R292, R297: the statuses and warnings each command can return. -/
def Obligations.CommandsReturnOnlyTheirStatuses : Prop :=
  ∀ (i : Instr) (s t : State) (r : Response), exec i s = .next t → t.resp = some r →
    r.status ∈ allowedStatuses i ∧ r.warn ∈ allowedWarnings i

/-- 60_exceptions R296: an error leaves no result and does not touch `LAYOUT` or `LAYOUT_SET`. -/
def Obligations.ErrorsLeaveNoTrace : Prop :=
  ∀ (i : Instr) (s t : State) (r : Response), exec i s = .next t → t.resp = some r → r.status ≠ 0 →
    r.results = Results.empty ∧ t.layout = s.layout ∧ t.layoutSet = s.layoutSet ∧ (r.status ≠ 7 → r.sub = 0)

/-! ### Layout Mode control -/

/-- 40_mode_control R120: SETMODE. -/
def Obligations.SetmodeEstablishesTheMode : Prop :=
  ∀ s : State, ConfigOk s →
    (s.slots.a0.toNat < 8 →
      exec .setmode s =
        endsOk { s with layout := BitVec.ofNat 3 s.slots.a0.toNat, layoutSet := true } 0 Results.empty) ∧
    (8 ≤ s.slots.a0.toNat → exec .setmode s = endsError s 8 0 0)

/-- 40_mode_control R123: GETMODE. -/
def Obligations.GetmodeReadsTheMode : Prop :=
  ∀ s : State, ConfigOk s →
    ∃ v : U64, exec .getmode s = endsOk s 0 { Results.empty with r0 := v } ∧ v.getLsbD 7 = s.layoutSet ∧
      (∀ j, j < 3 → v.getLsbD j = s.layout.getLsbD j) ∧ (∀ j, 3 ≤ j → j ≠ 7 → v.getLsbD j = false)

/-! ### The bit-field accessor -/

/-- 41_field_accessor R140: the checks of both directions and their order. -/
def Obligations.FieldChecksRunInOrder : Prop :=
  ∀ (s : State), ReadyToRead s → ∀ i ∈ [Instr.fieldGet, Instr.fieldSet],
    let L := s.slots.inBuf.length
    let msb := s.slots.a0.toNat
    let lsb := s.slots.a1.toNat
    (msb < lsb → exec i s = endsError s 1 0 0) ∧
      (lsb ≤ msb → 64 < msb - lsb + 1 → exec i s = endsError s 1 0 0) ∧
      (lsb ≤ msb → msb - lsb + 1 ≤ 64 → 8 * L ≤ msb → exec i s = endsError s 1 0 0) ∧
      (lsb ≤ msb → msb - lsb + 1 ≤ 64 → msb < 8 * L →
        (s.layout.getLsbD 1 = true ∨ s.layout.getLsbD 2 = true) → L % 4 ≠ 0 → exec i s = endsError s 10 0 0)

/-- 41_field_accessor R146, R150: FIELD_GET, on every path. -/
def Obligations.FieldGetReturnsTheField : Prop :=
  ∀ s : State, ConfigOk s →
    (s.layoutSet = false → exec .fieldGet s = endsError s 9 0 0) ∧
    (ModeSet s → ¬ InputFits s → exec .fieldGet s = endsError s 10 0 0) ∧
    (ModeSet s → InputFits s → ∀ e, checkField s.slots.inBuf.length s.slots.a0.toNat s.slots.a1.toNat s.layout = some e →
      exec .fieldGet s = endsError s e.code 0 0) ∧
    (ModeSet s → InputFits s → FieldLegal s.slots.inBuf.length s.slots.a0.toNat s.slots.a1.toNat s.layout →
      ∃ v : U64, exec .fieldGet s = endsOk s 0 { Results.empty with r0 := v } ∧
        ∀ j, v.getLsbD j = (decide (j ≤ s.slots.a0.toNat - s.slots.a1.toNat) &&
          logicalBit s.slots.inBuf s.layout (s.slots.a1.toNat + j)))

/-- 41_field_accessor R148, R151: FIELD_SET, on every path: exactly the field's bits are replaced. -/
def Obligations.FieldSetReplacesExactlyTheField : Prop :=
  ∀ s : State, ConfigOk s →
    let msb := s.slots.a0.toNat
    let lsb := s.slots.a1.toNat
    let w := msb - lsb + 1
    (s.layoutSet = false → exec .fieldSet s = endsError s 9 0 0) ∧
    (ModeSet s → ¬ InputFits s → exec .fieldSet s = endsError s 10 0 0) ∧
    (ModeSet s → InputFits s → ∀ e, checkField s.slots.inBuf.length msb lsb s.layout = some e →
      exec .fieldSet s = endsError s e.code 0 0) ∧
    (ModeSet s → InputFits s → FieldLegal s.slots.inBuf.length msb lsb s.layout →
      ∃ B : Buffer, exec .fieldSet s =
          endsOk s (if w < 64 ∧ 2 ^ w ≤ s.slots.a2.toNat then 1 else 0) { Results.empty with out := B } ∧
        B.length = s.slots.inBuf.length ∧
        (∀ j, j < w → logicalBit B s.layout (lsb + j) = s.slots.a2.getLsbD j) ∧
        (∀ p, p < 8 * B.length → (p < lsb ∨ msb < p) →
          logicalBit B s.layout p = logicalBit s.slots.inBuf s.layout p))

/-- 41_field_accessor R143, which the spec marks derived: the mapping is a bijection onto the physical bits. -/
def Obligations.PhysBitIsABijection : Prop :=
  ∀ (m : LayoutMode) (L : Nat), ((m.getLsbD 1 = true ∨ m.getLsbD 2 = true) → L % 4 = 0) →
    (∀ p, p < 8 * L → (physBit p L m).1 < L ∧ (physBit p L m).2 < 8) ∧
      (∀ p q, p < 8 * L → q < 8 * L → physBit p L m = physBit q L m → p = q) ∧
      (∀ a j, a < L → j < 8 → ∃ p, p < 8 * L ∧ physBit p L m = (a, j))

/-- 41_field_accessor R144, which the spec marks derived: the byte swap and the word reversal commute on every byte
address of a whole-word buffer. -/
def Obligations.SwapAndReversalCommute : Prop :=
  ∀ (m : LayoutMode) (L a : Nat), L % 4 = 0 → a < L →
    swapInWord m (reverseWords m L a) = reverseWords m L (swapInWord m a)

/-- 20_memory R63, R64, 41_field_accessor R141: the byte order of each mode, on a buffer of `4 * n` bytes for byte `r`
of logical word `q`, and with neither BSWAP nor WREV on a buffer of any length. The spec marks R64 derived, and the
base mapping it rests on as general knowledge: "This base mapping is not in the source" (R63; log 10). -/
def Obligations.ModesGiveTheirByteOrders : Prop :=
  (∀ (m : LayoutMode) (L k : Nat), m.getLsbD 1 = false → m.getLsbD 2 = false → k < L → phys k L m = L - 1 - k) ∧
    ∀ n q r : Nat, q < n → r < 4 →
      phys (4 * q + r) (4 * n) 0b000 = 4 * n - 1 - (4 * q + r) ∧
        phys (4 * q + r) (4 * n) 0b010 = 4 * (n - 1 - q) + r ∧
        phys (4 * q + r) (4 * n) 0b100 = 4 * q + (3 - r) ∧
        phys (4 * q + r) (4 * n) 0b110 = 4 * q + r ∧
        (∀ m : LayoutMode, m.getLsbD 0 = false →
          phys (4 * q + r) (4 * n) (m ||| 0b001) = phys (4 * q + r) (4 * n) m) ∧
        (∀ (m : LayoutMode) (j : Nat), j < 8 → m.getLsbD 0 = false → bitpos j (m ||| 0b001) = 7 - j ∧ bitpos j m = j)

/-- 41_field_accessor R145, R147: the source's byte walk reads the value of R146. -/
def Obligations.ByteWalkReadsTheField : Prop :=
  ∀ (B : Buffer) (msb lsb : Nat) (m : LayoutMode), fieldGetWalk B msb lsb m = fieldGetF B msb lsb m

/-- 41_field_accessor R145, R148: the source's byte walk writes the buffer of R148. -/
def Obligations.ByteWalkWritesTheField : Prop :=
  ∀ (B : Buffer) (msb lsb : Nat) (x : U64) (m : LayoutMode), fieldSetWalk B msb lsb x m = fieldSetF B msb lsb x m

/-- 41_field_accessor R149, which the spec marks derived: writing and reading a field, and every disjoint field. -/
def Obligations.FieldRoundTrip : Prop :=
  ∀ (B : Buffer) (msb lsb : Nat) (x : U64) (m : LayoutMode), FieldLegal B.length msb lsb m →
    ∃ B' tr, fieldSetF B msb lsb x m = .ok (B', tr) ∧
      (x.toNat < 2 ^ (msb - lsb + 1) → fieldGetF B' msb lsb m = .ok x) ∧
      fieldGetF B' msb lsb m = .ok (BitVec.ofNat 64 (x.toNat % 2 ^ (msb - lsb + 1))) ∧
      ∀ msb' lsb', FieldLegal B.length msb' lsb' m → (msb < lsb' ∨ msb' < lsb) →
        fieldGetF B' msb' lsb' m = fieldGetF B msb' lsb' m

/-- 30_encoding R102, 41_field_accessor R149: LOAD32 of what STORE32 returned gives the value back. -/
def Obligations.Load32ReadsWhatStore32Wrote : Prop :=
  ∀ (s : State) (x : U64), ConfigOk s → ModeSet s → SizeFits s.cfg 4 → x.toNat < 2 ^ 32 →
    ∃ t u r, issue (pseudoStore32 x) s = .next t ∧ issue (pseudoLoad32 (lastOut t)) t = .next u ∧
      u.resp = some r ∧ r.word = 0 ∧ r.results.r0 = x

/-! ### CRC-32 -/

/-- 42_crc32 R175, R177, the second marked derived and from general knowledge by the spec: CRC32 of whole words is the
standard CRC-32 of the bytes the mode presents. -/
def Obligations.CrcIsTheStandardCrc : Prop :=
  (∀ s : State, ReadyToRead s → s.slots.inBuf.length % 4 = 0 →
      exec .crc32 s =
        endsOk s 0 { Results.empty with r0 := (standardCrc (crcBytes s.slots.inBuf s.layout)).setWidth 64 }) ∧
    standardCrc [0x31, 0x32, 0x33, 0x34, 0x35, 0x36, 0x37, 0x38, 0x39] = 0xCBF43926

/-- 20_memory R62, 42_crc32 R174, R175: CRC32 of a buffer longer than `MAX_BUF_BYTES`, and of a length that is no
multiple of 4. -/
def Obligations.CrcOfIllegalLengthsIsRefused : Prop :=
  ∀ s : State, ConfigOk s → ModeSet s → (¬ InputFits s ∨ s.slots.inBuf.length % 4 ≠ 0) →
    exec .crc32 s = endsError s 10 0 0

/-- 42_crc32 R176: the CRC of a zero-length buffer is 0, in every mode. -/
def Obligations.CrcOfNothingIsZero : Prop :=
  ∀ s : State, ReadyToRead s → s.slots.inBuf = [] → exec .crc32 s = endsOk s 0 { Results.empty with r0 := 0 }

/-- 42_crc32 R179, which the spec marks derived and from general knowledge: one flipped bit changes the CRC. -/
def Obligations.OneFlippedBitChangesTheCrc : Prop :=
  ∀ (B : Buffer) (m : LayoutMode) (a j : Nat), B.length % 4 = 0 → a < B.length → j < 8 →
    ∃ c c', crc32F B m = .ok c ∧ crc32F (setBufBit B (a, j) (!bufBit B (a, j))) m = .ok c' ∧ c ≠ c'

/-! ### Table entry codec -/

/-- 20_memory R62, 43_entry_codec R191, R192, R195: ENTRY_DECODE, once the mode is set. -/
def Obligations.EntryDecodeReadsEveryField : Prop :=
  ∀ (v : Variant) (s : State), ConfigOk s → ModeSet s →
    (¬ InputFits s → exec (.entryDecode v) s = endsError s 10 0 0) ∧
    (InputFits s → (¬ ∃ f, HasTable s.cfg s.slots.a0.toNat v f) → exec (.entryDecode v) s = endsError s 2 0 0) ∧
    (∀ f, InputFits s → HasTable s.cfg s.slots.a0.toNat v f → s.slots.inBuf.length ≠ f.size →
      exec (.entryDecode v) s = endsError s 10 0 0) ∧
    (∀ f, InputFits s → HasTable s.cfg s.slots.a0.toNat v f → s.slots.inBuf.length = f.size →
      ∃ r : Record, exec (.entryDecode v) s = endsOk s 0 { Results.empty with recOut := r } ∧
        r.length = f.schema.length ∧
        ∀ (k : Nat) (d : FieldDesc) (x : U64), f.schema[k]? = some d → r[k]? = some x →
          ∀ j, x.getLsbD j = (decide (j ≤ d.msb - d.lsb) && logicalBit s.slots.inBuf s.layout (d.lsb + j)))

/-- 43_entry_codec R191, R193, R196: ENTRY_ENCODE, once the mode is set. -/
def Obligations.EntryEncodeWritesEveryField : Prop :=
  ∀ (v : Variant) (s : State), ConfigOk s → ModeSet s →
    ((¬ ∃ f, HasTable s.cfg s.slots.a0.toNat v f) → exec (.entryEncode v) s = endsError s 2 0 0) ∧
    (∀ f, HasTable s.cfg s.slots.a0.toNat v f → s.slots.record.length ≠ f.schema.length →
      exec (.entryEncode v) s = endsError s 10 0 0) ∧
    (∀ f, HasTable s.cfg s.slots.a0.toNat v f → s.slots.record.length = f.schema.length →
      ∃ B : Buffer, exec (.entryEncode v) s =
          endsOk s (if recordExceeds f s.slots.record then 1 else 0) { Results.empty with out := B } ∧
        B.length = f.size ∧
        (∀ (k : Nat) (d : FieldDesc) (x : U64), f.schema[k]? = some d → s.slots.record[k]? = some x →
          ∀ j, j ≤ d.msb - d.lsb → logicalBit B s.layout (d.lsb + j) = x.getLsbD j) ∧
        (∀ p, p < 8 * f.size → (∀ d ∈ f.schema, p < d.lsb ∨ d.msb < p) → logicalBit B s.layout p = false))

/-- 43_entry_codec R194, which the spec marks derived: the entry round trip, in both directions. -/
def Obligations.EntryRoundTrip : Prop :=
  ∀ (f : TableForm) (m : LayoutMode), f.wellFormed = true →
    (∀ r : Record, r.length = f.schema.length →
      ∃ B, entryEncodeF f r m = .ok (B, recordExceeds f r) ∧ entryDecodeF f B m = .ok (maskRecord f r) ∧
        (recordExceeds f r = false → entryDecodeF f B m = .ok r)) ∧
    (∀ E : Buffer, E.length = f.size →
      ∃ r B, entryDecodeF f E m = .ok r ∧ entryEncodeF f r m = .ok (B, false) ∧
        ∀ p, p < 8 * f.size →
          logicalBit B m p = (f.schema.any (fun d => decide (d.lsb ≤ p) && decide (p ≤ d.msb)) && logicalBit E m p))

/-! ### Container framer -/

/-- 44_container_framer R213, R214, R215: PACK of a legal table set returns the image of R213, of R214's length. The
spec marks R214 derived. -/
def Obligations.PackReturnsTheImage : Prop :=
  ∀ (s : State) (v : Variant), ConfigOk s → ModeSet s → s.slots.a0.toNat < 2 ^ 32 →
    TableSetLegal s.cfg v s.slots.tables → SizeFits s.cfg (imageLength s.cfg v s.slots.tables) →
    exec .pack s =
        endsOk s (if tablesExceed s.cfg v s.slots.tables then 1 else 0)
          { Results.empty with
            out := imageLayout s.cfg v s.layout s.slots.tables (BitVec.ofNat 32 s.slots.a0.toNat) } ∧
      (imageLayout s.cfg v s.layout s.slots.tables (BitVec.ofNat 32 s.slots.a0.toNat)).length =
        imageLength s.cfg v s.slots.tables ∧
      imageLength s.cfg v s.slots.tables % 4 = 0

/-- 44_container_framer R215, 60_exceptions R296: an image longer than `MAX_BUF_BYTES` is refused, and the warning set
before stays. -/
def Obligations.PackRefusesALongImage : Prop :=
  ∀ (s : State) (v : Variant), ConfigOk s → ModeSet s → s.slots.a0.toNat < 2 ^ 32 →
    TableSetLegal s.cfg v s.slots.tables → ¬ SizeFits s.cfg (imageLength s.cfg v s.slots.tables) →
    exec .pack s = endsError s 10 0 (if tablesExceed s.cfg v s.slots.tables then 1 else 0)

/-- 44_container_framer R216: the preflight of PACK and CHECK_VALID, in its order. -/
def Obligations.PreflightReportsTheFirstError : Prop :=
  ∀ (s : State) (i : Instr), ConfigOk s →
    (i = .checkValid ∨ (i = .pack ∧ ModeSet s ∧ s.slots.a0.toNat < 2 ^ 32)) →
    let ts := s.slots.tables
    ((¬ ∃ v, DeviceMaps s.cfg ts.dev v) → exec i s = endsError s 6 0 0) ∧
    (∀ v, DeviceMaps s.cfg ts.dev v → ts.tbl.length ≠ s.cfg.catalog.length → exec i s = endsError s 10 0 0) ∧
    (∀ (v : Variant) (k : Nat) (t : TableDesc) (recs : List Record), DeviceMaps s.cfg ts.dev v → ts.tbl.length = s.cfg.catalog.length →
      s.cfg.catalog[k]? = some t → ts.tbl[k]? = some recs →
      (∀ p ∈ (s.cfg.catalog.zip ts.tbl).take k, tableFine v p.1 p.2) →
      (0 < recs.length → formOf t v = none → exec i s = endsError s 2 0 0) ∧
      (∀ f, formOf t v = some f → t.maxCount < recs.length → exec i s = endsError s 5 0 0) ∧
      (∀ f, formOf t v = some f → recs.length ≤ t.maxCount → (∃ r ∈ recs, r.length ≠ f.schema.length) →
        exec i s = endsError s 10 0 0)) ∧
    (∀ v, TableSetLegal s.cfg v ts → ∃ t r, exec i s = .next t ∧ t.resp = some r ∧
      (r.status = 0 ∨ (i = .checkValid ∧ r.status = 7) ∨ (i = .pack ∧ r.status = 10)))

/-- 44_container_framer R233, which the spec marks derived: UNPACK of what PACK returned, under the same mode, gives
the table set back with every slot reduced to its field's width. -/
def Obligations.UnpackGivesBackWhatWasPacked : Prop :=
  ∀ (s t : State) (r : Response) (v : Variant), exec .pack s = .next t → t.resp = some r → r.status = 0 →
    DeviceMaps s.cfg s.slots.tables.dev v →
    let u : State := { t with slots := { t.slots with inBuf := r.results.out } }
    exec .unpack u = endsOk u 0 { Results.empty with tsOut := some (maskTables s.cfg v s.slots.tables) }

/-- 44_container_framer R213, R225, R233: UNPACK of the image of a legal table set, whatever placed it in `IN`. -/
def Obligations.UnpackReadsTheImageOfATableSet : Prop :=
  ∀ (s : State) (v : Variant) (ts : TableSet) (ph : U32), ReadyToRead s → TableSetLegal s.cfg v ts →
    s.slots.inBuf = imageLayout s.cfg v s.layout ts ph →
    exec .unpack s = endsOk s 0 { Results.empty with tsOut := some (maskTables s.cfg v ts) }

/-- 44_container_framer R225, R229, R230: UNPACK of an image with one table block of any declared length: the whole
entries that fit are decoded, and a remainder sets TableLengthMismatch. -/
def Obligations.UnpackDecodesADeclaredLength : Prop :=
  ∀ (s : State) (v : Variant) (dev : U32) (k lenw : Nat) (t : TableDesc) (f : TableForm) (body ph rest : Buffer),
    ReadyToRead s → DeviceMaps s.cfg dev v → s.cfg.catalog[k]? = some t → formOf t v = some f → 0 < lenw →
    lenw < 2 ^ s.cfg.hdrLen.width → 4 * lenw / f.size ≤ t.maxCount → body.length = 4 * lenw → ph.length = 4 →
    s.slots.inBuf = bufferOr (u32F dev s.layout) ++ withCrc (bufferOr (hdrF s.cfg t.blockId lenw s.layout)) s.layout ++
      withCrc body s.layout ++ bufferOr (hdrF s.cfg 0 0 s.layout) ++ ph ++ rest →
    ∃ recs : List Record, recs.length = 4 * lenw / f.size ∧
      (∀ (n : Nat) (r : Record), recs[n]? = some r →
        entryDecodeF f ((body.drop (n * f.size)).take f.size) s.layout = .ok r) ∧
      exec .unpack s = endsOk s (if 4 * lenw % f.size = 0 then 0 else 2)
        { Results.empty with tsOut := some ⟨dev, (List.replicate s.cfg.catalog.length []).set k recs⟩ }

/-- 44_container_framer R212, R225, R228: an image in which a table's header comes again, with any blocks before and between,
is refused at the second one. -/
def Obligations.UnpackRefusesARepeatedTable : Prop :=
  ∀ (s : State) (v : Variant) (dev : U32) (ds : List ImageBlock) (d : ImageBlock) (lenw : Nat)
    (header rest : Buffer),
    ReadyToRead s → 4 ≤ s.slots.inBuf.length → get32F (s.slots.inBuf.take 4) s.layout = .ok dev →
    DeviceMaps s.cfg dev v → BlocksLegal s.cfg v s.layout ds → d ∈ ds → 0 < lenw → lenw < 2 ^ s.cfg.hdrLen.width →
    ReadsAsHeader s.cfg s.layout header d.table.blockId lenw →
    s.slots.inBuf.drop 4 = blocksBytes s.layout ds ++ withCrc header s.layout ++ rest →
    exec .unpack s = endsError s 12 0 (blocksWarn v ds)

/-- 44_container_framer R226, R232: UNPACK stops at the first header whose length field is 0; an image that begins with
one has every table empty. -/
def Obligations.UnpackStopsAtTheTerminalHeader : Prop :=
  ∀ (s : State) (v : Variant) (dev : U32), ReadyToRead s → 16 ≤ s.slots.inBuf.length →
    get32F (s.slots.inBuf.take 4) s.layout = .ok dev → DeviceMaps s.cfg dev v →
    hlenF s.cfg ((s.slots.inBuf.drop 4).take 8) s.layout = .ok 0 →
    exec .unpack s =
      endsOk s 0 { Results.empty with tsOut := some ⟨dev, List.replicate s.cfg.catalog.length []⟩ }

/-- 44_container_framer R232: bytes after the terminal header are not read. -/
def Obligations.UnpackIgnoresTrailingBytes : Prop :=
  ∀ (s t : State) (r : Response) (extra : Buffer), exec .unpack s = .next t → t.resp = some r → r.status = 0 →
    SizeFits s.cfg (s.slots.inBuf ++ extra).length →
    ∃ u, exec .unpack { s with slots := { s.slots with inBuf := s.slots.inBuf ++ extra } } = .next u ∧ u.resp = some r

/-- 20_memory R62, 44_container_framer R225 to R231: the checks of UNPACK in their order, before its first header and
at the header after any list of blocks it accepts, of different tables in any order, whatever their headers hold outside
the two fields (R212). -/
def Obligations.UnpackChecksEveryHeaderInOrder : Prop :=
  ∀ s : State, ConfigOk s → ModeSet s →
    let B := s.slots.inBuf
    let m := s.layout
    (¬ InputFits s → exec .unpack s = endsError s 10 0 0) ∧
    (InputFits s → B.length < 4 → exec .unpack s = endsError s 11 0 0) ∧
    (∀ dev, InputFits s → 4 ≤ B.length → get32F (B.take 4) m = .ok dev → (¬ ∃ v, DeviceMaps s.cfg dev v) →
      exec .unpack s = endsError s 6 0 0) ∧
    (∀ (dev : U32) (v : Variant) (ds : List ImageBlock) (tail : Buffer), InputFits s → 4 ≤ B.length →
      get32F (B.take 4) m = .ok dev → DeviceMaps s.cfg dev v → BlocksLegal s.cfg v s.layout ds →
      B.drop 4 = blocksBytes m ds ++ tail →
      let w := blocksWarn v ds
      (tail.length < 12 → exec .unpack s = endsError s 11 0 w) ∧
      (∀ (lenw bid : U64) (crc stored : U32), 12 ≤ tail.length → hlenF s.cfg (tail.take 8) m = .ok lenw → lenw ≠ 0 →
        hbidF s.cfg (tail.take 8) m = .ok bid → crc32F (tail.take 8) m = .ok crc →
        get32F ((tail.drop 8).take 4) m = .ok stored →
        (crc ≠ stored → exec .unpack s = endsError s 3 0 w) ∧
        (crc = stored → (¬ ∃ f, HasTable s.cfg bid.toNat v f) → exec .unpack s = endsError s 2 0 w) ∧
        (crc = stored → bid.toNat ∈ ds.map (fun d => d.table.blockId) → exec .unpack s = endsError s 12 0 w) ∧
        (∀ t ∈ s.cfg.catalog, ∀ f, crc = stored → t.blockId = bid.toNat → formOf t v = some f →
          bid.toNat ∉ ds.map (fun d => d.table.blockId) →
          (t.maxCount < 4 * lenw.toNat / f.size → exec .unpack s = endsError s 5 0 w) ∧
          (4 * lenw.toNat / f.size ≤ t.maxCount → tail.length < 16 + 4 * lenw.toNat →
            exec .unpack s = endsError s 11 0 w) ∧
          (∀ dcrc dstored : U32, 4 * lenw.toNat / f.size ≤ t.maxCount → 16 + 4 * lenw.toNat ≤ tail.length →
            crc32F ((tail.drop 12).take (4 * lenw.toNat)) m = .ok dcrc →
            get32F ((tail.drop (12 + 4 * lenw.toNat)).take 4) m = .ok dstored → dcrc ≠ dstored →
            exec .unpack s = endsError s 4 0 (if 4 * lenw.toNat % f.size = 0 then w else 2)))))

/-! ### Validation -/

/-- 44_container_framer R240, R241, R242, R245: CHECK_VALID of a legal table set: OK when every condition of the rule
list, written out over entry counts and partition sizes, holds; else the position of the first that fails. A slot that
`PARTITION_FIELDS` lists twice counts twice: the model's choice (log 14). -/
def Obligations.CheckValidNamesTheFirstFailingRule : Prop :=
  ∀ (s : State) (v : Variant), ConfigOk s → TableSetLegal s.cfg v s.slots.tables →
    ((∀ b ∈ ruleConditions s.cfg s.slots.tables v, b = true) → exec .checkValid s = endsOk s 0 Results.empty) ∧
    (∀ k : Nat, (ruleConditions s.cfg s.slots.tables v)[k]? = some false →
      (∀ b ∈ (ruleConditions s.cfg s.slots.tables v).take k, b = true) →
      exec .checkValid s = endsError s 7 (k + 1) 0)

/-- 44_container_framer R246, which the spec marks derived: the source's testable property 6. A slot
that `PARTITION_FIELDS` lists twice counts twice: the model's choice (log 14). -/
def Obligations.ScheduleAndMinimalSetsAreJudged : Prop :=
  ∀ (s : State) (v : Variant), ConfigOk s → TableSetLegal s.cfg v s.slots.tables →
    let ts := s.slots.tables
    (0 < entryCount ts s.cfg.roles.schedule → entryCount ts s.cfg.roles.scheduleEntryPoints = 0 →
      exec .checkValid s = endsError s 7 1 0) ∧
    (entryCount ts s.cfg.roles.schedule = 0 → (∀ b ∈ requiredConditions s.cfg ts, b = true) →
      withinBudget s.cfg ts v = true → s.cfg.extraRules = [] → exec .checkValid s = endsOk s 0 Results.empty)

/-! ### Chunk splitter and transport header -/

/-- 45_chunk_splitter R260, R261, R262: SPLIT on every path, its chunks in closed form. -/
def Obligations.SplitReturnsTheClosedForm : Prop :=
  ∀ s : State, ConfigOk s →
    let N := s.slots.inBuf.length
    let base := s.slots.a0.toNat
    let mx := s.slots.a1.toNat
    (¬ InputFits s → exec .split s = endsError s 10 0 0) ∧
    (InputFits s → 2 ^ 21 ≤ base → exec .split s = endsError s 14 0 0) ∧
    (InputFits s → base < 2 ^ 21 → (mx = 0 ∨ mx % 4 ≠ 0) → exec .split s = endsError s 13 0 0) ∧
    (InputFits s → base < 2 ^ 21 → 0 < mx → mx % 4 = 0 → 2 ^ 21 < base + (N + 3) / 4 →
      exec .split s = endsError s 14 0 0) ∧
    (InputFits s → base < 2 ^ 21 → 0 < mx → mx % 4 = 0 → base + (N + 3) / 4 ≤ 2 ^ 21 →
      exec .split s = endsOk s 0 { Results.empty with
        chunks := (List.range ((N + mx - 1) / mx)).map fun k =>
          ⟨base + k * (mx / 4), k * mx, min mx (N - k * mx)⟩ })

/-- 45_chunk_splitter R264, which the spec marks derived: the chunks of every successful SPLIT cover the buffer exactly
and in order. -/
def Obligations.ChunksCoverTheBufferInOrder : Prop :=
  ∀ (s t : State) (r : Response), exec .split s = .next t → t.resp = some r → r.status = 0 →
    r.results.chunks.flatMap (chunkSlice s.slots.inBuf) = s.slots.inBuf ∧
      (∀ c ∈ r.results.chunks, 0 < c.len ∧ c.len ≤ s.slots.a1.toNat) ∧
      (∀ (k : Nat) (c d : Chunk), r.results.chunks[k]? = some c → r.results.chunks[k + 1]? = some d →
        c.off < d.off ∧ d.off = c.off + c.len ∧ d.addr = c.addr + c.len / 4) ∧
      (s.slots.inBuf.length = 10 * s.slots.a1.toNat + 3 → r.results.chunks.length = 11)

/-- 45_chunk_splitter R266, R267: MSGHDR, on every path: the four bytes read back as the header of R267.
That direction 1 is write is the spec's own choice, which R267 marks as general knowledge (log 10). -/
def Obligations.MsghdrBuildsTheHeader : Prop :=
  ∀ (d : Direction) (s : State), ConfigOk s →
    (s.layoutSet = false → exec (.msghdr d) s = endsError s 9 0 0) ∧
    (ModeSet s →
      ∃ B : Buffer, exec (.msghdr d) s =
          endsOk s (if 2 ^ 21 ≤ s.slots.a0.toNat ∨ (d = .read ∧ 2 ^ 6 ≤ s.slots.a1.toNat) then 1 else 0)
            { Results.empty with out := B } ∧
        B.length = 4 ∧
        get32F B s.layout = .ok (BitVec.ofNat 32
          ((if d = .write then 1 else 0) * 2 ^ 31 + (if d = .read then s.slots.a1.toNat % 2 ^ 6 else 0) * 2 ^ 25 +
            s.slots.a0.toNat % 2 ^ 21 * 2 ^ 4)))

/-- 30_encoding R102, 70_reset R324: PREPARE_UPLOAD of a legal table set that meets every validation rule ends with the
chunks of the packed image, in order. Among the rules is the memory budget, with the model's choice of log 14. -/
def Obligations.PrepareUploadSplitsThePackedImage : Prop :=
  ∀ (s : State) (v : Variant) (ts : TableSet) (ph base mx : U64), ConfigOk s → ModeSet s → TableSetLegal s.cfg v ts →
    (∀ b ∈ ruleConditions s.cfg ts v, b = true) → ph.toNat < 2 ^ 32 →
    SizeFits s.cfg (imageLength s.cfg v ts) → 0 < mx.toNat → mx.toNat % 4 = 0 →
    base.toNat + imageLength s.cfg v ts / 4 ≤ 2 ^ 21 →
    ∃ t r, prepareUpload ts ph base mx s = .next t ∧ t.resp = some r ∧ r.word = 0 ∧
      r.results.chunks.flatMap (chunkSlice (imageLayout s.cfg v s.layout ts (BitVec.ofNat 32 ph.toNat))) =
        imageLayout s.cfg v s.layout ts (BitVec.ofNat 32 ph.toNat) ∧
      (∀ c ∈ r.results.chunks, 0 < c.len ∧ c.len ≤ mx.toNat)

/-- 44_container_framer R212, R225, R228, R229, R230, R232: UNPACK of any list of blocks it accepts, of different tables
in any order and whatever their headers hold outside the two fields, up to the first header whose length field is 0: every table has its block's whole entries and is empty without
one, a remainder sets TableLengthMismatch, and no byte after that header is read. -/
def Obligations.UnpackReadsBlocksInAnyOrder : Prop :=
  ∀ (s : State) (v : Variant) (dev : U32) (ds : List ImageBlock) (header rest : Buffer),
    ReadyToRead s → 4 ≤ s.slots.inBuf.length → get32F (s.slots.inBuf.take 4) s.layout = .ok dev →
    DeviceMaps s.cfg dev v → BlocksLegal s.cfg v s.layout ds → header.length = 8 → hlenF s.cfg header s.layout = .ok 0 →
    4 ≤ rest.length → s.slots.inBuf.drop 4 = blocksBytes s.layout ds ++ header ++ rest →
    exec .unpack s = endsOk s (blocksWarn v ds)
      { Results.empty with tsOut := some ⟨dev, gatherBlocks s.cfg v s.layout ds⟩ }
end

