-- ==== Sys2Proof/Laws/Flags.lean ====
section
/-! SUPPORT. What the fields of a response word read (30_encoding R93), once for every word `respWord` builds. -/

namespace Sys2Proof.Machine

/-- `WARN` has two bits (30_encoding R97). -/
theorem Warn.code_lt (w : Warn) : w.code < 4 := by
  obtain ⟨a, b⟩ := w
  cases a <;> cases b <;> decide

/-- The number a response word stands for. -/
theorem respWord_toNat (st sub : Nat) (w : Warn) :
    (respWord st sub w).toNat = st % 2 ^ 8 + (sub % 2 ^ 8) * 2 ^ 8 + w.code * 2 ^ 16 := by
  have := Warn.code_lt w
  rw [respWord, BitVec.toNat_ofNat]
  omega

@[simp] theorem status_respWord (st sub : Nat) (w : Warn) (r : Results) :
    Response.status ⟨respWord st sub w, r⟩ = st % 2 ^ 8 := by
  have := Warn.code_lt w
  rw [Response.status, respWord_toNat]
  omega

@[simp] theorem sub_respWord (st sub : Nat) (w : Warn) (r : Results) :
    Response.sub ⟨respWord st sub w, r⟩ = sub % 2 ^ 8 := by
  have := Warn.code_lt w
  rw [Response.sub, respWord_toNat]
  omega

@[simp] theorem warn_respWord (st sub : Nat) (w : Warn) (r : Results) :
    Response.warn ⟨respWord st sub w, r⟩ = w.code := by
  have := Warn.code_lt w
  rw [Response.warn, respWord_toNat]
  omega

@[simp] theorem reserved_respWord (st sub : Nat) (w : Warn) (r : Results) :
    Response.reserved ⟨respWord st sub w, r⟩ = 0 := by
  have := Warn.code_lt w
  rw [Response.reserved, respWord_toNat]
  omega

/-- A status code is 1 to 14 (60_exceptions R291). -/
theorem Err.code_bounds (e : Err) : 1 ≤ e.code ∧ e.code ≤ 14 := by
  cases e <;> simp [Err.code]

/-- `SUB` is 0 for every error but ConfigValidationFailure (60_exceptions R294). -/
theorem Err.subReason_eq_zero (e : Err) (h : e.code ≠ 7) : e.subReason = 0 := by
  cases e <;> first | rfl | exact absurd rfl h

/-- Status code 7 is ConfigValidationFailure alone (60_exceptions R291). -/
theorem Err.code_eq_seven (e : Err) (h : e.code = 7) : ∃ k, e = .configValidationFailure k := by
  cases e with
  | configValidationFailure k => exact ⟨k, rfl⟩
  | _ => exact absurd h (by decide)

/-- The response of an OK reply. -/
@[simp] theorem Reply.response_done (w : Warn) (r : Results) : (Reply.done w r).response = ⟨respWord 0 0 w, r⟩ := rfl

/-- The response of an error reply: no result (60_exceptions R296). -/
@[simp] theorem Reply.response_raise (w : Warn) (e : Err) :
    (Reply.raise w e).response = ⟨respWord e.code e.subReason w, Results.empty⟩ := rfl

end Sys2Proof.Machine
end

