-- ==== Sys2Proof/Laws/State.lean ====
section
/-! SUPPORT. One lemma per field of State and update of it, each true by rfl, so that no later proof unfolds a record
update. -/

namespace Sys2Proof.Machine

/-! ### respond -/

@[simp] theorem respond_cfg (s : State) (r : Response) : (respond s r).cfg = s.cfg := rfl
@[simp] theorem respond_layout (s : State) (r : Response) : (respond s r).layout = s.layout := rfl
@[simp] theorem respond_layoutSet (s : State) (r : Response) : (respond s r).layoutSet = s.layoutSet := rfl
@[simp] theorem respond_slots (s : State) (r : Response) : (respond s r).slots = s.slots := rfl
@[simp] theorem respond_pending (s : State) (r : Response) : (respond s r).pending = s.pending := rfl
@[simp] theorem respond_resp (s : State) (r : Response) : (respond s r).resp = some r := rfl

/-! ### establish -/

@[simp] theorem establish_cfg (s : State) (m : LayoutMode) : (establish s m).cfg = s.cfg := rfl
@[simp] theorem establish_layout (s : State) (m : LayoutMode) : (establish s m).layout = m := rfl
@[simp] theorem establish_layoutSet (s : State) (m : LayoutMode) : (establish s m).layoutSet = true := rfl
@[simp] theorem establish_slots (s : State) (m : LayoutMode) : (establish s m).slots = s.slots := rfl
@[simp] theorem establish_pending (s : State) (m : LayoutMode) : (establish s m).pending = s.pending := rfl
@[simp] theorem establish_resp (s : State) (m : LayoutMode) : (establish s m).resp = s.resp := rfl

/-! ### loadCommand -/

@[simp] theorem loadCommand_cfg (s : State) (c : Command) (rest : List Input) : (loadCommand s c rest).cfg = s.cfg := rfl
@[simp] theorem loadCommand_layout (s : State) (c : Command) (rest : List Input) : (loadCommand s c rest).layout = s.layout := rfl
@[simp] theorem loadCommand_layoutSet (s : State) (c : Command) (rest : List Input) : (loadCommand s c rest).layoutSet = s.layoutSet := rfl
@[simp] theorem loadCommand_slots (s : State) (c : Command) (rest : List Input) : (loadCommand s c rest).slots = c.slots := rfl
@[simp] theorem loadCommand_pending (s : State) (c : Command) (rest : List Input) : (loadCommand s c rest).pending = rest := rfl
@[simp] theorem loadCommand_resp (s : State) (c : Command) (rest : List Input) : (loadCommand s c rest).resp = s.resp := rfl

/-! ### applyReset -/

@[simp] theorem applyReset_cfg (s : State) (rest : List Input) : (applyReset s rest).cfg = s.cfg := rfl
@[simp] theorem applyReset_layout (s : State) (rest : List Input) : (applyReset s rest).layout = 0 := rfl
@[simp] theorem applyReset_layoutSet (s : State) (rest : List Input) : (applyReset s rest).layoutSet = false := rfl
@[simp] theorem applyReset_slots (s : State) (rest : List Input) : (applyReset s rest).slots = Slots.empty := rfl
@[simp] theorem applyReset_pending (s : State) (rest : List Input) : (applyReset s rest).pending = rest := rfl
@[simp] theorem applyReset_resp (s : State) (rest : List Input) : (applyReset s rest).resp = none := rfl

/-! ### withFetchWord -/

@[simp] theorem State.withFetchWord_cfg (s : State) (nbits w : Nat) : (s.withFetchWord nbits w).cfg = s.cfg := rfl
@[simp] theorem State.withFetchWord_layout (s : State) (nbits w : Nat) : (s.withFetchWord nbits w).layout = s.layout := rfl
@[simp] theorem State.withFetchWord_layoutSet (s : State) (nbits w : Nat) : (s.withFetchWord nbits w).layoutSet = s.layoutSet := rfl
@[simp] theorem State.withFetchWord_slots (s : State) (nbits w : Nat) : (s.withFetchWord nbits w).slots = s.slots := rfl
@[simp] theorem State.withFetchWord_pending (s : State) (nbits w : Nat) : (s.withFetchWord nbits w).pending = placeWord s (BitVec.ofNat 32 (w % 2 ^ nbits)) := rfl
@[simp] theorem State.withFetchWord_resp (s : State) (nbits w : Nat) : (s.withFetchWord nbits w).resp = s.resp := rfl

/-! ### resetWith -/

@[simp] theorem State.resetWith_cfg (c : Config) : (State.resetWith c).cfg = c := rfl
@[simp] theorem State.resetWith_layout (c : Config) : (State.resetWith c).layout = 0 := rfl
@[simp] theorem State.resetWith_layoutSet (c : Config) : (State.resetWith c).layoutSet = false := rfl
@[simp] theorem State.resetWith_slots (c : Config) : (State.resetWith c).slots = Slots.empty := rfl
@[simp] theorem State.resetWith_pending (c : Config) : (State.resetWith c).pending = [] := rfl
@[simp] theorem State.resetWith_resp (c : Config) : (State.resetWith c).resp = none := rfl

/-! ### A second response replaces the first -/

@[simp] theorem respond_respond (s : State) (r r' : Response) : respond (respond s r) r' = respond s r' := rfl

/-- Loading the command that already stands in the slots leaves all but the inputs as they are. -/
theorem loadCommand_same (s : State) (w : U32) : loadCommand s ⟨w, s.slots⟩ s.pending = s := rfl

end Sys2Proof.Machine
end

