-- ==== Sys2Proof/Laws/Ops.lean ====
section
/-! SUPPORT. One lemma per shared operation, saying everything it can do; later proofs cite it instead of unfolding
the operation. -/

namespace Sys2Proof.Machine

/-- A well-formed configuration passes both checks of `underConfig`. -/
theorem wfConfig_iff (c : Config) : wfConfig c = true ↔ wfCat c = true ∧ wfParams c = true := by
  simp [wfConfig]

/-- `underConfig` answers a next state exactly under a well-formed configuration, and then the one it was given
(60_exceptions R311). -/
theorem underConfig_eq_next (s t u : State) :
    underConfig s t = .next u ↔ wfConfig s.cfg = true ∧ u = t := by
  rw [wfConfig_iff, underConfig]
  cases wfCat s.cfg <;> cases wfParams s.cfg <;> simp [eq_comm]

/-- `answer` under a well-formed configuration changes the response and nothing else. -/
theorem answer_of_configOk (s : State) (r : Reply) (h : ConfigOk s) : answer s r = .next (respond s r.response) := by
  rw [answer, underConfig_eq_next]
  exact ⟨h, rfl⟩

/-- Every next state `answer` gives. -/
theorem answer_eq_next (s u : State) (r : Reply) :
    answer s r = .next u ↔ wfConfig s.cfg = true ∧ u = respond s r.response :=
  underConfig_eq_next s _ u

/-- `answer` never faults: the block has no traps (60_exceptions R290). -/
theorem answer_ne_fault (s : State) (r : Reply) (f : Fault) : answer s r ≠ .fault f := nomatch f

/-- `withMode` raises ModeNotSet, or passes the latched mode on (10_state R35, R36). -/
theorem withMode_cases (s : State) (k : LayoutMode → Reply) :
    (s.layoutSet = false ∧ withMode s k = raising .modeNotSet) ∨ (s.layoutSet = true ∧ withMode s k = k s.layout) := by
  unfold withMode
  cases s.layoutSet <;> simp

theorem withMode_set (s : State) (k : LayoutMode → Reply) (h : ModeSet s) : withMode s k = k s.layout := by
  simp [withMode, show s.layoutSet = true from h]

theorem withMode_unset (s : State) (k : LayoutMode → Reply) (h : s.layoutSet = false) :
    withMode s k = raising .modeNotSet := by
  simp [withMode, h]

/-- A length passes the check of 20_memory R62 exactly when it is no more than a `MAX_BUF_BYTES` that is set. -/
theorem tooLong_eq_false (c : Config) (n : Nat) : tooLong c n = false ↔ SizeFits c n := by
  unfold tooLong SizeFits
  cases c.maxBufBytes <;> simp

/-- `withInput` raises InvalidLength, or passes `IN` on (20_memory R62). -/
theorem withInput_cases (s : State) (k : Buffer → Reply) :
    (¬ InputFits s ∧ withInput s k = raising .invalidLength) ∨ (InputFits s ∧ withInput s k = k s.slots.inBuf) := by
  have h := tooLong_eq_false s.cfg s.slots.inBuf.length
  unfold withInput
  cases ht : tooLong s.cfg s.slots.inBuf.length with
  | false => exact .inr ⟨h.mp ht, by simp⟩
  | true => exact .inl ⟨fun hf => by simp [h.mpr hf] at ht, by simp⟩

theorem withInput_fits (s : State) (k : Buffer → Reply) (h : InputFits s) : withInput s k = k s.slots.inBuf := by
  rcases withInput_cases s k with h' | h'
  · exact absurd h h'.1
  · exact h'.2

theorem withInput_tooLong (s : State) (k : Buffer → Reply) (h : ¬ InputFits s) :
    withInput s k = raising .invalidLength := by
  rcases withInput_cases s k with h' | h'
  · exact h'.2
  · exact absurd h'.1 h

/-- An inner function's error ends the command with the same code (60_exceptions R297). -/
@[simp] theorem replyOf_error {α : Type} (e : Err) (k : α → Reply) : replyOf (.error e) k = raising e := rfl

@[simp] theorem replyOf_ok {α : Type} (a : α) (k : α → Reply) : replyOf (.ok a) k = k a := rfl

/-- `replyOf` either raises the error it was given or goes on with the value. -/
theorem replyOf_cases {α : Type} (r : Except Err α) (k : α → Reply) :
    (∃ e, r = .error e ∧ replyOf r k = raising e) ∨ (∃ a, r = .ok a ∧ replyOf r k = k a) := by
  cases r with
  | error e => exact .inl ⟨e, rfl, rfl⟩
  | ok a => exact .inr ⟨a, rfl, rfl⟩

/-- What `fetch` takes from each kind of input list. -/
theorem fetch_nil (s : State) (h : s.pending = []) : fetch s = .nothing := by simp [fetch, h]

theorem fetch_reset (s : State) (rest : List Input) (h : s.pending = .resetEvent :: rest) :
    fetch s = .wasReset (applyReset s rest) := by simp [fetch, h]

theorem fetch_command (s : State) (c : Command) (rest : List Input) (i : Instr)
    (h : s.pending = .command c :: rest) (hd : decode c.word = .ok i) :
    fetch s = .run i (loadCommand s c rest) := by simp [fetch, h, hd]

theorem fetch_illegal (s : State) (c : Command) (rest : List Input) (e : Illegal)
    (h : s.pending = .command c :: rest) (hd : decode c.word = .error e) :
    fetch s = .illegal (loadCommand s c rest) := by simp [fetch, h, hd]

/-- Everything a step can do: nothing, a reset, an illegal command's response, or a command. -/
theorem step_cases (s : State) :
    (s.pending = [] ∧ step s = .next s) ∨
      (∃ rest, s.pending = .resetEvent :: rest ∧ step s = .next (applyReset s rest)) ∨
      (∃ c rest e, s.pending = .command c :: rest ∧ decode c.word = .error e ∧
        step s = illegalCommand (loadCommand s c rest)) ∨
      (∃ c rest i, s.pending = .command c :: rest ∧ decode c.word = .ok i ∧
        step s = exec i (loadCommand s c rest)) := by
  cases h : s.pending with
  | nil => exact .inl ⟨rfl, by simp [step, fetch_nil s h, idle]⟩
  | cons x rest =>
    cases x with
    | resetEvent => exact .inr (.inl ⟨rest, rfl, by simp [step, fetch_reset s rest h]⟩)
    | command c =>
      cases hd : decode c.word with
      | error e => exact .inr (.inr (.inl ⟨c, rest, e, rfl, hd, by simp [step, fetch_illegal s c rest e h hd]⟩))
      | ok i => exact .inr (.inr (.inr ⟨c, rest, i, rfl, hd, by simp [step, fetch_command s c rest i h hd]⟩))

end Sys2Proof.Machine
end

