-- ==== Sys2Proof/Laws/Exec.lean ====
section
/-! SUPPORT. What `exec` is for each command: every command but SETMODE answers one reply and changes nothing else. -/

namespace Sys2Proof.Machine

/-- The reply of a command, for every command but SETMODE; SETMODE's when its operand is legal. -/
def replyFor (i : Instr) (s : State) : Reply :=
  match i with
  | .setmode => doneNothing
  | .getmode => doneR0 (modeByte s)
  | .fieldGet => fieldGetReply s
  | .fieldSet => fieldSetReply s
  | .crc32 => crc32Reply s
  | .entryDecode v => entryDecodeReply v s
  | .entryEncode v => entryEncodeReply v s
  | .unpack => unpackReply s
  | .pack => packReply s
  | .checkValid => checkValidReply s
  | .split => splitReply s
  | .msghdr d => msghdrReply d s

/-- Every command but SETMODE answers its reply (10_state R34). -/
theorem exec_eq_answer (i : Instr) (s : State) (h : i ≠ .setmode) : exec i s = answer s (replyFor i s) := by
  cases i with
  | setmode => exact absurd rfl h
  | _ => rfl

/-- SETMODE either turns its operand away or establishes the mode (40_mode_control R120). -/
theorem exec_setmode_cases (s : State) :
    (¬ s.slots.a0.toNat < 8 ∧ exec .setmode s = answer s (raising .invalidCommand)) ∨
      (s.slots.a0.toNat < 8 ∧ exec .setmode s = answer (establish s (BitVec.ofNat 3 s.slots.a0.toNat)) doneNothing) := by
  simp only [exec, execSetmode, setmodeSlotLegal, setmodeByteLegal, highBitsZero, modeOperand]
  by_cases h8 : s.slots.a0.toNat < 8
  · have h1 : decide (s.slots.a0.toNat < 2 ^ 8) = true := decide_eq_true (by omega)
    have h2 : decide (s.slots.a0.toNat / 2 ^ 3 % 2 ^ 5 = 0) = true := decide_eq_true (by omega)
    exact .inr ⟨h8, by simp only [h1, h2, Bool.true_eq_false, if_false]⟩
  · refine .inl ⟨h8, ?_⟩
    by_cases h1 : s.slots.a0.toNat < 2 ^ 8
    · have h2 : decide (s.slots.a0.toNat / 2 ^ 3 % 2 ^ 5 = 0) = false := decide_eq_false (by omega)
      simp only [h2, if_true, ite_self]
    · simp only [decide_eq_false h1, if_true]

/-- No step of a command faults: the type of faults is empty (60_exceptions R290). -/
theorem exec_ne_fault (i : Instr) (s : State) (f : Fault) : exec i s ≠ .fault f := nomatch f

end Sys2Proof.Machine
end

