-- ==== Sys2Proof/Laws/Accessor.lean ====
section
/-! SUPPORT. The accessor's small lemmas: lengths, single bits, when a field is legal, and what reading and writing
bits do, each once. -/

namespace Sys2Proof.Machine

/-- The bits of a byte after one bit was cleared or set. -/
theorem getLsbD_byteWithBit (v : Byte) (j : Nat) (b : Bool) (i : Nat) (hj : j < 8) :
    (byteWithBit v j b).getLsbD i = if i = j then b else v.getLsbD i := by
  unfold byteWithBit
  by_cases h : i = j
  · subst h
    cases b <;> simp [hj]
  · have h' : ¬ j = i := fun e => h e.symm
    cases b
    · by_cases hi : i < 8
      · simp [h, hi]
      · simp [h, hi, BitVec.getLsbD_of_ge v i (by omega)]
    · simp [h, h', BitVec.getLsbD_twoPow]

@[simp] theorem setBufBit_length (B : Buffer) (pos : Nat × Nat) (b : Bool) :
    (setBufBit B pos b).length = B.length := by simp [setBufBit]

@[simp] theorem writeBits_length (B : Buffer) (lsb : Nat) (x : U64) (m : LayoutMode) (w : Nat) :
    (writeBits B lsb x m w).length = B.length := by
  induction w with
  | zero => rfl
  | succ i ih => simp [writeBits, ih]

/-- Reading a bit after writing one: the bit written, or the bit that was there. -/
theorem bufBit_setBufBit (B : Buffer) (p q : Nat × Nat) (b : Bool) (hp : p.1 < B.length) (hj : p.2 < 8) :
    bufBit (setBufBit B p b) q = if q = p then b else bufBit B q := by
  obtain ⟨a, j⟩ := p
  obtain ⟨a', j'⟩ := q
  simp only [bufBit, setBufBit, Prod.mk.injEq] at *
  by_cases ha : a' = a
  · subst ha
    simp only [List.getD_eq_getElem?_getD, List.getElem?_set_self hp, Option.getD_some, true_and]
    exact getLsbD_byteWithBit _ j b j' hj
  · simp [List.getD_eq_getElem?_getD, List.getElem?_set_ne (Ne.symm ha), ha]

/-- The value read is below `2^w`: it is zero-extended (41_field_accessor R146). -/
theorem readBits_lt (B : Buffer) (lsb : Nat) (m : LayoutMode) (w : Nat) : readBits B lsb m w < 2 ^ w := by
  induction w with
  | zero => simp [readBits]
  | succ i ih =>
    have hb : (bufBit B (physBit (lsb + i) B.length m)).toNat ≤ 1 := Bool.toNat_le _
    have : (bufBit B (physBit (lsb + i) B.length m)).toNat * 2 ^ i ≤ 1 * 2 ^ i := Nat.mul_le_mul_right _ hb
    rw [readBits, Nat.pow_succ]
    omega

/-- Bit `i` of the value read is logical bit `lsb + i` (41_field_accessor R146). -/
theorem testBit_readBits (B : Buffer) (lsb : Nat) (m : LayoutMode) (w i : Nat) (h : i < w) :
    (readBits B lsb m w).testBit i = logicalBit B m (lsb + i) := by
  induction w with
  | zero => omega
  | succ k ih =>
    have hlt := readBits_lt B lsb m k
    have hsum : readBits B lsb m (k + 1) =
        2 ^ k * (bufBit B (physBit (lsb + k) B.length m)).toNat + readBits B lsb m k := by
      rw [readBits, Nat.mul_comm, Nat.add_comm]
    rw [hsum, Nat.testBit_two_pow_mul_add _ hlt]
    by_cases hk : i < k
    · simp [hk, ih hk]
    · have : i = k := by omega
      subst this
      cases hb : bufBit B (physBit (lsb + i) B.length m) <;> simp [logicalBit, hb]

/-- A field passes `checkField` exactly when it is legal (41_field_accessor R140). -/
theorem checkField_eq_none (L msb lsb : Nat) (m : LayoutMode) :
    checkField L msb lsb m = none ↔ FieldLegal L msb lsb m := by
  unfold checkField FieldLegal bswapOn wrevOn Config.maxFieldWidth
  split
  · simp; omega
  · split
    · simp; omega
    · split
      · simp; omega
      · by_cases hL : L % 4 = 0
        · simp [hL]; omega
        · cases m.getLsbD 1 <;> cases m.getLsbD 2 <;> (simp [hL]; try omega)

/-- FIELD_GET_f of a legal field (41_field_accessor R146). -/
theorem fieldGetF_legal (B : Buffer) (msb lsb : Nat) (m : LayoutMode) (h : FieldLegal B.length msb lsb m) :
    fieldGetF B msb lsb m = .ok (BitVec.ofNat 64 (readBits B lsb m (msb - lsb + 1))) := by
  rw [fieldGetF, (checkField_eq_none _ _ _ _).mpr h]

/-- FIELD_SET_f of a legal field (41_field_accessor R148). -/
theorem fieldSetF_legal (B : Buffer) (msb lsb : Nat) (x : U64) (m : LayoutMode) (h : FieldLegal B.length msb lsb m) :
    fieldSetF B msb lsb x m = .ok (writeBits B lsb x m (msb - lsb + 1), truncates (msb - lsb + 1) x) := by
  rw [fieldSetF, (checkField_eq_none _ _ _ _).mpr h]

/-- An accessor call either raises what `checkField` names or is one of the two lemmas above. -/
theorem fieldGetF_cases (B : Buffer) (msb lsb : Nat) (m : LayoutMode) :
    (∃ e, checkField B.length msb lsb m = some e ∧ fieldGetF B msb lsb m = .error e) ∨
      (FieldLegal B.length msb lsb m ∧
        fieldGetF B msb lsb m = .ok (BitVec.ofNat 64 (readBits B lsb m (msb - lsb + 1)))) := by
  cases h : checkField B.length msb lsb m with
  | some e => exact .inl ⟨e, rfl, by simp [fieldGetF, h]⟩
  | none =>
    have h' := (checkField_eq_none _ _ _ _).mp h
    exact .inr ⟨h', fieldGetF_legal B msb lsb m h'⟩

/-- FIELD_SET_f keeps the buffer's length (41_field_accessor R148, R151). -/
theorem fieldSetF_length (B : Buffer) (msb lsb : Nat) (x : U64) (m : LayoutMode) (q : Buffer × Bool)
    (h : fieldSetF B msb lsb x m = .ok q) : q.1.length = B.length := by
  unfold fieldSetF at h
  split at h
  · cases h
  · cases h; simp

/-- A field below bit 32 is legal in a 4-byte buffer under every mode. -/
theorem fieldLegal_four (msb lsb : Nat) (m : LayoutMode) (h : lsb ≤ msb) (h' : msb < 32) : FieldLegal 4 msb lsb m :=
  ⟨h, by omega, by omega, fun _ => rfl⟩

/-- `U32_f` never fails, and its buffer has 4 bytes (00_scope R17). -/
theorem u32F_ok (x : U32) (m : LayoutMode) : ∃ b, u32F x m = .ok b ∧ b.length = 4 := by
  refine ⟨_, by rw [u32F, fieldSetF_legal _ _ _ _ _ (fieldLegal_four 31 0 m (by omega) (by omega))], by simp⟩

/-- `GET32_f` of a 4-byte buffer never fails (00_scope R17). -/
theorem get32F_ok (S : Buffer) (m : LayoutMode) (h : S.length = 4) : ∃ x, get32F S m = .ok x := by
  have hf : FieldLegal S.length 31 0 m := by rw [h]; exact fieldLegal_four 31 0 m (by omega) (by omega)
  exact ⟨_, by rw [get32F, fieldGetF_legal _ _ _ _ hf]⟩

end Sys2Proof.Machine
end

