-- ==== Sys2Proof/Laws/Framer.lean ====
section
/-! SUPPORT. The inner functions of the CRC, the entry codec and the framer: under `WF_CAT` none of the accessor calls
they make on fixed fields fails (60_exceptions R297), and how long their buffers are. -/

namespace Sys2Proof.Machine

/-- The word loop of the CRC never fails: each word is a 4-byte buffer (42_crc32 R172). -/
theorem crcWords_ok (m : LayoutMode) (B : Buffer) (crc : U32) : ∃ c, crcWords m B crc = .ok c := by
  induction B, crc using crcWords.induct m with
  | case1 b0 b1 b2 b3 rest crc e h =>
    have hf := fieldGetF_legal [b0, b1, b2, b3] 31 0 m (fieldLegal_four 31 0 m (by omega) (by omega))
    rw [hf] at h
    cases h
  | case2 b0 b1 b2 b3 rest crc w h ih => simpa [crcWords, h] using ih
  | case3 B crc h => exact ⟨crc, by rw [crcWords]; exact h⟩

/-- `CRC32_f` of a whole number of words never fails (42_crc32 R174). -/
theorem crc32F_ok (B : Buffer) (m : LayoutMode) (h : B.length % 4 = 0) : ∃ c, crc32F B m = .ok c := by
  obtain ⟨c, hc⟩ := crcWords_ok m B Config.crcSeed
  exact ⟨_, by rw [crc32F, if_neg (by simp [h]), hc]⟩

/-- `CRC32_f` of any other buffer fails with InvalidLength (42_crc32 R174). -/
theorem crc32F_error (B : Buffer) (m : LayoutMode) (h : B.length % 4 ≠ 0) : crc32F B m = .error .invalidLength := by
  rw [crc32F, if_pos h]

/-- A CRC is stored in 4 bytes (42_crc32 R178). -/
theorem storedCrc_ok (B : Buffer) (m : LayoutMode) (h : B.length % 4 = 0) :
    ∃ b, storedCrc B m = .ok b ∧ b.length = 4 := by
  obtain ⟨c, hc⟩ := crc32F_ok B m h
  obtain ⟨b, hb, hl⟩ := u32F_ok c m
  exact ⟨b, by simp [storedCrc, hc, hb], hl⟩

/-- What a well-formed configuration says of its header fields (00_scope R12 item 6). -/
theorem header_legal (c : Config) (h : wfConfig c = true) (m : LayoutMode) :
    FieldLegal 8 c.hdrBlkId.msb c.hdrBlkId.lsb m ∧ FieldLegal 8 c.hdrLen.msb c.hdrLen.lsb m ∧
      (c.hdrBlkId.msb < c.hdrLen.lsb ∨ c.hdrLen.msb < c.hdrBlkId.lsb) := by
  simp only [wfConfig, wfCat, headerWellFormed, BitRange.fitsHeader, BitRange.width, BitRange.disjoint,
    Config.maxFieldWidth, Bool.and_eq_true, Bool.or_eq_true, decide_eq_true_eq] at h
  obtain ⟨⟨⟨-, ⟨⟨⟨⟨h1, h2⟩, h3⟩, ⟨⟨h4, h5⟩, h6⟩⟩, h7⟩⟩, -⟩, -⟩ := h
  exact ⟨⟨h1, of_decide_eq_true h2, h3, fun _ => rfl⟩, ⟨h4, of_decide_eq_true h5, h6, fun _ => rfl⟩, h7⟩

/-- A header's fields take 8 bytes (44_container_framer R212). -/
theorem hdrF_ok (c : Config) (h : wfConfig c = true) (bid lenw : Nat) (m : LayoutMode) :
    ∃ b, hdrF c bid lenw m = .ok b ∧ b.length = 8 := by
  obtain ⟨h1, h2, -⟩ := header_legal c h m
  have e1 := fieldSetF_legal (zeros 8) _ _ (BitVec.ofNat 64 bid) m (by simpa using h1)
  refine ⟨_, by rw [hdrF, e1]; simp only; rw [fieldSetF_legal _ _ _ _ _ (by simpa using h2)], by simp⟩

/-- A form present in the catalog of a well-formed configuration is well formed (00_scope R12 items 2 to 4). -/
theorem form_wellFormed (c : Config) (h : wfConfig c = true) (t : TableDesc) (ht : t ∈ c.catalog) (v : Variant)
    (f : TableForm) (hf : formOf t v = some f) : f.wellFormed = true := by
  simp only [wfConfig, wfCat, formsWellFormed, Bool.and_eq_true, List.all_eq_true] at h
  refine h.1.1.1.1.2 t ht f ?_
  cases v <;> simp only [formOf] at hf <;> simp [presentForms, hf]

/-- A well-formed form's size is a positive multiple of 4 and its fields are legal in an entry
(00_scope R12 items 2 and 3). -/
theorem wellFormed_fields (f : TableForm) (h : f.wellFormed = true) (m : LayoutMode) :
    0 < f.size ∧ f.size % 4 = 0 ∧ ∀ d ∈ f.schema, FieldLegal f.size d.msb d.lsb m := by
  simp only [TableForm.wellFormed, TableForm.sizeOk, Bool.and_eq_true, decide_eq_true_eq, List.all_eq_true,
    FieldDesc.fits, FieldDesc.width, FieldDesc.range, BitRange.width, Config.maxFieldWidth] at h
  obtain ⟨⟨⟨hs, hm⟩, hfit⟩, -⟩ := h
  exact ⟨hs, hm, fun d hd => ⟨(hfit d hd).1.1, of_decide_eq_true (hfit d hd).1.2, (hfit d hd).2, fun _ => hm⟩⟩

/-- Writing legal fields never fails and keeps the length (43_entry_codec R193). -/
theorem encodeFields_ok (m : LayoutMode) (fs : List FieldDesc) (r : Record) (E : Buffer) (tr : Bool)
    (h : ∀ d ∈ fs, FieldLegal E.length d.msb d.lsb m) :
    ∃ q, encodeFields m fs r E tr = .ok q ∧ q.1.length = E.length := by
  induction fs generalizing r E tr with
  | nil => exact ⟨(E, tr), by simp [encodeFields], rfl⟩
  | cons d fs ih =>
    cases r with
    | nil => exact ⟨(E, tr), by simp [encodeFields], rfl⟩
    | cons x r =>
      have hd := fieldSetF_legal E d.msb d.lsb x m (h d (by simp))
      obtain ⟨q, hq, hl⟩ := ih r (writeBits E d.lsb x m (d.msb - d.lsb + 1))
        (tr || truncates (d.msb - d.lsb + 1) x) (fun g hg => by simpa using h g (by simp [hg]))
      exact ⟨q, by simp [encodeFields, hd, hq], by simpa using hl⟩

/-- ENTRY_ENCODE_f of a record of the right length gives `size` bytes (43_entry_codec R193, R196). -/
theorem entryEncodeF_ok (f : TableForm) (hf : f.wellFormed = true) (r : Record) (m : LayoutMode)
    (h : r.length = f.schema.length) : ∃ q, entryEncodeF f r m = .ok q ∧ q.1.length = f.size := by
  obtain ⟨-, -, hd⟩ := wellFormed_fields f hf m
  obtain ⟨q, hq, hl⟩ := encodeFields_ok m f.schema r (zeros f.size) false (by simpa using hd)
  exact ⟨q, by rw [entryEncodeF, if_neg (by simp [h]), hq], by simpa using hl⟩

/-- Reading legal fields never fails and gives one slot per field (43_entry_codec R192). -/
theorem decodeFields_ok (E : Buffer) (m : LayoutMode) (fs : List FieldDesc)
    (h : ∀ d ∈ fs, FieldLegal E.length d.msb d.lsb m) :
    ∃ r, decodeFields E m fs = .ok r ∧ r.length = fs.length := by
  induction fs with
  | nil => exact ⟨[], rfl, rfl⟩
  | cons d fs ih =>
    obtain ⟨r, hr, hl⟩ := ih (fun g hg => h g (by simp [hg]))
    have hd := fieldGetF_legal E d.msb d.lsb m (h d (by simp))
    exact ⟨_ :: r, by simp only [decodeFields, hd, hr]; rfl, by simp [hl]⟩

/-- ENTRY_DECODE_f of an entry of the right length never fails (43_entry_codec R192). -/
theorem entryDecodeF_ok (f : TableForm) (hf : f.wellFormed = true) (E : Buffer) (m : LayoutMode)
    (h : E.length = f.size) : ∃ r, entryDecodeF f E m = .ok r ∧ r.length = f.schema.length := by
  obtain ⟨-, -, hd⟩ := wellFormed_fields f hf m
  obtain ⟨r, hr, hl⟩ := decodeFields_ok E m f.schema (by rw [h]; exact hd)
  exact ⟨r, by rw [entryDecodeF, if_neg (by simp [h]), hr], hl⟩

end Sys2Proof.Machine
end

