-- ==== Sys2Proof/Laws/PerInstr.lean ====
section
/-! SUPPORT. The per-instruction family: each command's word satisfies its row of spec/opcode_table.json. -/

namespace Sys2Proof.Laws.TableRow

/-- The `match` of a command's row of spec/opcode_table.json. -/
def tableMatch : Instr → U32
  | .setmode => 0x00000001
  | .getmode => 0x00000002
  | .fieldGet => 0x00000010
  | .fieldSet => 0x00000011
  | .crc32 => 0x00000020
  | .entryDecode _ => 0x00000030
  | .entryEncode _ => 0x00000031
  | .unpack => 0x00000040
  | .pack => 0x00000041
  | .checkValid => 0x00000042
  | .split => 0x00000050
  | .msghdr _ => 0x00000051

/-- The `mask` of a command's row of spec/opcode_table.json. -/
def tableMask : Instr → U32
  | .entryDecode _ => 0xFFFFFEFF
  | .entryEncode _ => 0xFFFFFEFF
  | .msghdr _ => 0xFFFFFDFF
  | _ => 0xFFFFFFFF

/-- The encoded word, under the row's mask, is the row's match. -/
def Statement (i : Instr) : Prop := encode i &&& tableMask i = tableMatch i

theorem setmode : Statement .setmode := rfl
theorem getmode : Statement .getmode := rfl
theorem fieldGet : Statement .fieldGet := rfl
theorem fieldSet : Statement .fieldSet := rfl
theorem crc32 : Statement .crc32 := rfl
theorem entryDecode (v : Variant) : Statement (.entryDecode v) := by cases v <;> rfl
theorem entryEncode (v : Variant) : Statement (.entryEncode v) := by cases v <;> rfl
theorem unpack : Statement .unpack := rfl
theorem pack : Statement .pack := rfl
theorem checkValid : Statement .checkValid := rfl
theorem split : Statement .split := rfl
theorem msghdr (d : Direction) : Statement (.msghdr d) := by cases d <;> rfl

end Sys2Proof.Laws.TableRow
end

