-- ==== Sys2Proof/Laws/Validate.lean ====
section
/-! SUPPORT. The validation rule list (44_container_framer R240 to R242): the conditions written out in Safety.lean are
what the rules of the meaning say, and what evaluating the rules in order gives. -/

namespace Sys2Proof.Machine

/-- The partition sizes of the meaning are those written out (44_container_framer R242). -/
theorem memSum_eq (c : Config) (ts : TableSet) (v : Variant) : memSum c ts v = partitionTotal c ts v := by
  cases v <;> rfl

/-- The memory budget's rule is `withinBudget` (44_container_framer R241, `SUB` 11). -/
theorem memoryBudget_holds (c : Config) (ts : TableSet) (v : Variant) :
    ruleHolds c ts v .memoryBudget = withinBudget c ts v := by
  cases v <;> simp [ruleHolds, withinBudget, memSum_eq, budget]

/-- `n = 0 or P` is `0 < n` implies `P`, as a Bool (44_container_framer R240). -/
theorem zero_or_eq (n : Nat) (P : Prop) [Decidable P] : (decide (n = 0) || decide P) = decide (0 < n → P) := by
  cases n <;> simp

/-- A rule of any kind holds when its condition does (44_container_framer R240). -/
theorem ruleHolds_eq (c : Config) (ts : TableSet) (v : Variant) (q : ValidationRule) :
    ruleHolds c ts v q = extraCondition c ts v q := by
  cases q with
  | memoryBudget => exact memoryBudget_holds c ts v
  | countMin a k => rfl
  | countExact a k => rfl
  | impliesNonempty a b =>
    exact zero_or_eq _ _
  | impliesExact a b k =>
    exact zero_or_eq _ _

/-- A requirement's rule holds when the count meets it (44_container_framer R241, `SUB` 4 to 10). -/
theorem requirement_holds (c : Config) (ts : TableSet) (v : Variant) (a : Role) (q : CountReq) :
    ruleHolds c ts v (requirementRule a q) = countMet q (entryCount ts (roleIndex c.roles a)) := by
  cases q <;> rfl

/-- The conditions written out are the rules of the list, in its order (44_container_framer R241). -/
theorem ruleConditions_eq (c : Config) (ts : TableSet) (v : Variant) :
    ruleConditions c ts v = (ruleList c).map (ruleHolds c ts v) := by
  simp only [ruleConditions, ruleList, scheduleRules, requiredRules, scheduleConditions, requiredConditions,
    List.map_append, List.map_cons, List.map_nil, requirement_holds, memoryBudget_holds, roleIndex]
  simp only [funext (ruleHolds_eq c ts v), extraCondition, roleIndex]
  congr 1

end Sys2Proof.Machine
end

