-- ==== Sys2Proof/Tests/Slice0.lean ====
section
/-! SUPPORT. The model's own tests: the opcode map word by word, ill-formed terms the checks refuse, one or two steps
per command with results taken from the vectors of 95_test_vectors, and for every statement of
Certificates/Slice0/Obligations.lean with hypotheses a state that meets them. -/

namespace Sys2Proof.Tests

open Sys2Proof Sys2Proof.Machine

-- One test after another: in parallel, a thread and its stack for each of them exceed the memory limit of a check.
set_option Elab.async false

/-! ### Helpers -/

def alphaForm : TableForm := ⟨8, [⟨"x", 63, 54⟩, ⟨"y", 53, 41⟩, ⟨"z", 40, 8⟩, ⟨"w", 3, 0⟩]⟩
def betaForm : TableForm := ⟨4, [⟨"p", 31, 30⟩, ⟨"q", 29, 0⟩]⟩
def gammaV0 : TableForm := ⟨4, [⟨"m", 31, 0⟩]⟩
def gammaV1 : TableForm := ⟨8, [⟨"m", 31, 0⟩, ⟨"n", 63, 32⟩]⟩

/-- TESTCAT (95_test_vectors section 2.1). -/
def testcat : Config :=
  { Config.atReset with
    catalog :=
      [ ⟨"ALPHA", 0x06, 4, some alphaForm, some alphaForm⟩, ⟨"GAMMA", 0x09, 2, some gammaV0, some gammaV1⟩,
        ⟨"BETA", 0x4E, 1, some betaForm, some betaForm⟩ ]
    roles := ⟨0, 0, 0, 0, 0, 0, 0, 0, 0, 0, 0, 0⟩
    partitions := ⟨[], [], [], []⟩ }

/-- TESTCAT with BETA absent for V1 and buffers of at most `k` bytes. -/
def smallcat (k : Nat) : Config :=
  { testcat with
    catalog := [⟨"ALPHA", 0x06, 4, some alphaForm, some alphaForm⟩, ⟨"BETA", 0x4E, 1, some betaForm, none⟩]
    maxBufBytes := some k }

/-- A state with the mode `m` established. -/
def st (c : Config) (m : Nat) (sl : Slots) : State :=
  { State.resetWith c with layout := BitVec.ofNat 3 m, layoutSet := true, slots := sl }

/-- Slots with a buffer and scalars. -/
def sl (B : Buffer) (a0 a1 a2 : U64) : Slots := { Slots.empty with inBuf := B, a0 := a0, a1 := a1, a2 := a2 }

/-- The response of an outcome. -/
def respOf (a : Answer) : Option Response :=
  match a with
  | .next t => t.resp
  | _ => none

/-- The mode and its flag after an outcome. -/
def modeOf (a : Answer) : Option (Bool × LayoutMode) :=
  match a with
  | .next t => some (t.layoutSet, t.layout)
  | _ => none

/-- One step on a command placed before a state. -/
def stepOn (s : State) (c : Command) : Answer := step { s with pending := [.command c] }

/-! ### Decoding: every constructor from its word of 30_encoding R98, and the words of R99 -/

theorem test_decode_setmode : decode 0x00000001 = .ok .setmode := rfl
theorem test_decode_getmode : decode 0x00000002 = .ok .getmode := rfl
theorem test_decode_fieldGet : decode 0x00000010 = .ok .fieldGet := rfl
theorem test_decode_fieldSet : decode 0x00000011 = .ok .fieldSet := rfl
theorem test_decode_crc32 : decode 0x00000020 = .ok .crc32 := rfl
theorem test_decode_entryDecode_v0 : decode 0x00000030 = .ok (.entryDecode .v0) := rfl
theorem test_decode_entryDecode_v1 : decode 0x00000130 = .ok (.entryDecode .v1) := rfl
theorem test_decode_entryEncode_v0 : decode 0x00000031 = .ok (.entryEncode .v0) := rfl
theorem test_decode_entryEncode_v1 : decode 0x00000131 = .ok (.entryEncode .v1) := rfl
theorem test_decode_unpack : decode 0x00000040 = .ok .unpack := rfl
theorem test_decode_pack : decode 0x00000041 = .ok .pack := rfl
theorem test_decode_checkValid : decode 0x00000042 = .ok .checkValid := rfl
theorem test_decode_split : decode 0x00000050 = .ok .split := rfl
theorem test_decode_msghdr_read : decode 0x00000051 = .ok (.msghdr .read) := rfl
theorem test_decode_msghdr_write : decode 0x00000251 = .ok (.msghdr .write) := rfl

/-- Vectors M11 and M12. -/
theorem test_decode_unmapped : decode 0x00000000 = .error .unmappedOp ∧ decode 0x00000003 = .error .unmappedOp :=
  ⟨rfl, rfl⟩
/-- Vector M15. -/
theorem test_decode_reserved : decode 0x00000451 = .error .reservedBits := rfl
/-- Vectors M13 and M16. -/
theorem test_decode_variant : decode 0x00000110 = .error .variantSet ∧ decode 0x00000351 = .error .variantSet :=
  ⟨rfl, rfl⟩
/-- Vector M14. -/
theorem test_decode_direction : decode 0x00000211 = .error .directionSet := rfl

/-! ### Well-formedness: an ill-formed term for each check (00_scope R12, R8, R13) -/

theorem test_wf_testcat : wfConfig testcat = true := by decide +kernel
theorem test_wf_valcat : wfConfig Config.atReset = true := by decide +kernel
theorem test_wf_refuses_header_order : BitRange.fitsHeader ⟨3, 4⟩ = false := by decide
theorem test_wf_refuses_header_width : BitRange.fitsHeader ⟨64, 0⟩ = false := by decide
theorem test_wf_refuses_header_range : BitRange.fitsHeader ⟨64, 63⟩ = false := by decide
theorem test_wf_refuses_shared_header_bit : BitRange.disjoint ⟨31, 24⟩ ⟨24, 16⟩ = false := by decide
theorem test_wf_refuses_field_order : FieldDesc.fits ⟨"f", 3, 4⟩ 4 = false := by decide
theorem test_wf_refuses_wide_field : FieldDesc.fits ⟨"f", 64, 0⟩ 12 = false := by decide
theorem test_wf_refuses_field_outside : FieldDesc.fits ⟨"f", 32, 30⟩ 4 = false := by decide
theorem test_wf_refuses_aliased_fields : fieldsDisjoint [⟨"f", 7, 4⟩, ⟨"g", 4, 0⟩] = false := by decide
theorem test_wf_refuses_empty_entry : TableForm.sizeOk ⟨0, []⟩ = false := by decide
theorem test_wf_refuses_odd_entry : TableForm.sizeOk ⟨6, []⟩ = false := by decide
theorem test_wf_refuses_ill_formed_form : TableForm.wellFormed ⟨4, [⟨"f", 7, 4⟩, ⟨"g", 4, 0⟩]⟩ = false := by decide

/-- Item 1: equal block ids. -/
theorem test_wf_refuses_equal_ids :
    wfCat { testcat with catalog := [⟨"A", 6, 1, none, none⟩, ⟨"B", 6, 1, none, none⟩] } = false := by decide +kernel
/-- Item 1: a block id wider than its header field. -/
theorem test_wf_refuses_wide_id : wfCat { testcat with catalog := [⟨"A", 0x100, 1, none, none⟩] } = false := by
  decide +kernel
/-- Items 2 to 4: an ill-formed form. -/
theorem test_wf_refuses_bad_form : wfCat { testcat with catalog := [⟨"A", 6, 1, some ⟨6, []⟩, none⟩] } = false := by
  decide +kernel
/-- Item 5: a full table whose length field would overflow. -/
theorem test_wf_refuses_long_table :
    wfCat { testcat with hdrLen := ⟨33, 32⟩, catalog := [⟨"A", 6, 4, some ⟨4, []⟩, none⟩] } = false := by
  decide +kernel
/-- Item 6: header fields that overlap. -/
theorem test_wf_refuses_header_overlap : wfCat { testcat with hdrLen := ⟨31, 16⟩ } = false := by decide +kernel
/-- The parameters outside WF_CAT, one by one (log 6). -/
theorem test_wf_refuses_equal_devices :
    wfParams { testcat with deviceIds := ⟨⟨1, .v0⟩, ⟨1, .v1⟩, ⟨2, .v0⟩, ⟨3, .v0⟩⟩ } = false := by decide +kernel
theorem test_wf_refuses_role_outside :
    wfParams { testcat with roles := ⟨3, 0, 0, 0, 0, 0, 0, 0, 0, 0, 0, 0⟩ } = false := by decide +kernel
theorem test_wf_refuses_count_zero :
    wfParams { testcat with required := ⟨.min 0, .min 1, .exact 2, .exact 2, .exact 1, .exact 1, .exact 1⟩ } = false := by
  decide +kernel
theorem test_wf_refuses_extra_count_zero : wfParams { testcat with extraRules := [.countMin .schedule 0] } = false := by
  decide +kernel
theorem test_wf_refuses_many_extra_rules :
    wfParams { testcat with extraRules := List.replicate 245 .memoryBudget } = false := by decide +kernel
theorem test_wf_refuses_partition_slot : wfParams { testcat with partitions := ⟨[4], [], [], []⟩ } = false := by
  decide +kernel
/-- An ill-formed catalog and ill-typed parameters refuse a command (60_exceptions R311). -/
theorem test_ill_formed_refuses :
    (match exec .getmode (st { testcat with hdrLen := ⟨31, 16⟩ } 0 Slots.empty) with
      | .refused r => some r
      | _ => none) = some .illFormedCatalog := by decide +kernel
theorem test_ill_typed_refuses :
    (match exec .getmode (st { testcat with partitions := ⟨[4], [], [], []⟩ } 0 Slots.empty) with
      | .refused r => some r
      | _ => none) = some .illTypedParameters := by decide +kernel

/-! ### Steps: results from 95_test_vectors -/

/-- Vector M5, from reset. -/
theorem test_setmode_establishes : modeOf (stepOn State.reset (asmSetmode 4)) = some (true, 0b100) := by decide +kernel
/-- Vector M7: a reserved bit, nothing changes. -/
theorem test_setmode_refused : modeOf (stepOn (st testcat 4 Slots.empty) (asmSetmode 0x08)) = some (true, 0b100) := by
  decide +kernel
/-- Vectors M1 and M6. -/
theorem test_getmode_reset : respOf (stepOn State.reset asmGetmode) = some ⟨0, Results.empty⟩ := by decide +kernel
theorem test_getmode_wrev :
    respOf (stepOn (st testcat 4 Slots.empty) asmGetmode) = some ⟨0, { Results.empty with r0 := 0x84 }⟩ := by
  decide +kernel
/-- Vector F26 under mode 4: a field across a word boundary. -/
theorem test_fieldGet_wrev :
    respOf (stepOn (st testcat 4 Slots.empty) (asmFieldGet [1, 2, 3, 4, 5, 6, 7, 8] 39 28)) =
      some ⟨0, { Results.empty with r0 := 0x080 }⟩ := by decide +kernel
/-- Vector M2: before the mode is set. -/
theorem test_fieldGet_modeNotSet :
    respOf (stepOn State.reset (asmFieldGet (zeros 4) 31 0)) = some ⟨9, Results.empty⟩ := by decide +kernel
/-- Vector F5: MIRROR on a box that is not byte aligned. -/
theorem test_fieldSet_mirror :
    respOf (stepOn (st testcat 1 Slots.empty) (asmFieldSet (zeros 4) 11 4 0xAB)) =
      some ⟨0, { Results.empty with out := [0x00, 0x00, 0x50, 0x0D] }⟩ := by decide +kernel
/-- Vectors F12 and M22: a masked value. -/
theorem test_fieldSet_truncates :
    respOf (stepOn (st testcat 0 Slots.empty) (asmFieldSet (zeros 4) 3 0 0x1F)) =
      some ⟨0x00010000, { Results.empty with out := [0, 0, 0, 0x0F] }⟩ := by decide +kernel
/-- Vector CR7: the standard CRC-32 of "12345678". -/
theorem test_crc32_standard :
    respOf (stepOn (st testcat 2 Slots.empty) (asmCrc32 [0x31, 0x32, 0x33, 0x34, 0x35, 0x36, 0x37, 0x38])) =
      some ⟨0, { Results.empty with r0 := 0x9AE0DAAF }⟩ := by decide +kernel
/-- Vector CR11: under BSWAP and MIRROR. -/
theorem test_crc32_mirror :
    respOf (stepOn (st testcat 3 Slots.empty) (asmCrc32 [0x31, 0x32, 0x33, 0x34, 0x35, 0x36, 0x37, 0x38])) =
      some ⟨0, { Results.empty with r0 := 0x20BC386D }⟩ := by decide +kernel
/-- Vector E14. -/
theorem test_entryDecode_v1 :
    respOf (stepOn (st testcat 0 Slots.empty) (asmEntryDecode .v1 0x09 [1, 2, 3, 4, 5, 6, 7, 8])) =
      some ⟨0, { Results.empty with recOut := [0x05060708, 0x01020304] }⟩ := by decide +kernel
/-- Vector E12: an entry of the wrong size. -/
theorem test_entryDecode_length :
    respOf (stepOn (st testcat 0 Slots.empty) (asmEntryDecode .v0 0x06 (zeros 4))) = some ⟨10, Results.empty⟩ := by
  decide +kernel
/-- Vector E2. -/
theorem test_entryEncode_wrev :
    respOf (stepOn (st testcat 4 Slots.empty) (asmEntryEncode .v0 0x06 [0x3FF, 0x1ABC, 0x123456789, 0xA])) =
      some ⟨0, { Results.empty with out := [0x45, 0x67, 0x89, 0x0A, 0xFF, 0xF5, 0x79, 0x23] }⟩ := by decide +kernel
/-- Vector E9: an unknown block id. -/
theorem test_entryEncode_unknown :
    respOf (stepOn (st testcat 0 Slots.empty) (asmEntryEncode .v0 0x05 [1])) = some ⟨2, Results.empty⟩ := by
  decide +kernel

/-- The image of vector U7: a declared length that is no whole number of entries. -/
def imageU7 : Buffer :=
  [ 0x9E, 0x00, 0x03, 0x0E, 0x06, 0x00, 0x00, 0x00, 0x00, 0x00, 0x00, 0x03, 0xF8, 0xD7, 0x85, 0x27, 0x00, 0x01, 0x02,
    0x03, 0x04, 0x05, 0x06, 0x07, 0x08, 0x09, 0x0A, 0x0B, 0x72, 0x32, 0xFC, 0x9C ] ++ zeros 8 ++
    [0xDE, 0xAD, 0xBE, 0xEF]

/-- The image of vector K6. -/
def imageK6 : Buffer :=
  [ 0xAE, 0x00, 0x03, 0x0E, 0x09, 0x00, 0x00, 0x00, 0x00, 0x00, 0x00, 0x02, 0xC2, 0x3B, 0x75, 0x93, 0x11, 0x11, 0x11,
    0x11, 0x22, 0x22, 0x22, 0x22, 0xC2, 0xB0, 0xE4, 0x55 ] ++ zeros 8 ++ [0xCA, 0xFE, 0xF0, 0x0D]

def tablesK6 : TableSet := ⟨0xAE00030E, [[], [[0x11111111, 0x22222222]], []]⟩

/-- The image of vector U20: block id 0x07, which no table has. -/
def imageU20 : Buffer :=
  [ 0x9E, 0x00, 0x03, 0x0E, 0x07, 0x00, 0x00, 0x00, 0x00, 0x00, 0x00, 0x01, 0x6F, 0xBE, 0x64, 0x1C, 0x00, 0x00, 0x00,
    0x00, 0x21, 0x44, 0xDF, 0x1C ] ++ zeros 8 ++ [0xDE, 0xAD, 0xBE, 0xEF]

/-- The bytes of image K2 before its terminal header's end: one BETA table (95_test_vectors K2, bytes 36 to 55). -/
def imageBeta : Buffer :=
  [ 0x9E, 0x00, 0x03, 0x0E, 0x4E, 0x00, 0x00, 0x00, 0x00, 0x00, 0x00, 0x01, 0x3A, 0x5D, 0x5E, 0x24, 0x80, 0x01, 0x23,
    0x45, 0x43, 0x26, 0x3D, 0xCB ] ++ zeros 12

/-- Vectors U7 and M23. -/
theorem test_unpack_mismatch :
    respOf (stepOn (st testcat 4 Slots.empty) (asmUnpack imageU7)) =
      some ⟨0x00020000,
        { Results.empty with tsOut := some ⟨0x9E00030E, [[[16, 643, 117440770, 3]], [], []]⟩ }⟩ := by decide +kernel
/-- Vector U4. -/
theorem test_unpack_k6 :
    respOf (stepOn (st testcat 4 Slots.empty) (asmUnpack imageK6)) =
      some ⟨0, { Results.empty with tsOut := some tablesK6 }⟩ := by decide +kernel
/-- Vector K6. -/
theorem test_pack_k6 :
    respOf (stepOn (st testcat 4 Slots.empty) (asmPack tablesK6 0xCAFEF00D)) =
      some ⟨0, { Results.empty with out := imageK6 }⟩ := by decide +kernel
/-- Vector K8: above `max_count`. -/
theorem test_pack_count :
    respOf (stepOn (st testcat 4 Slots.empty) (asmPack ⟨0x9E00030E, [[], [], [[0, 0], [0, 0]]]⟩ 0)) =
      some ⟨5, Results.empty⟩ := by decide +kernel

/-- `TS_min` of 95_test_vectors section 2.2, with the lists of SCHEDULE and L2_FORWARDING_PARAMS given. -/
def tsMin (schedule l2params : List Record) : TableSet :=
  ⟨0x9E00030E,
    [schedule, [], [], [], [[0]], [[0]], [[0], [0]], [[0], [0]], l2params, [[0]], [[0]], []]⟩

/-- Vectors V2 and M24: the memory budget, SUB 11. -/
theorem test_checkValid_budget :
    respOf (stepOn State.reset (asmCheckValid (tsMin [] [[101]]))) = some ⟨0x00000B07, Results.empty⟩ := by
  decide +kernel
/-- Vectors V1 and M20. -/
theorem test_checkValid_minimal :
    respOf (stepOn State.reset (asmCheckValid (tsMin [] [[100]]))) = some ⟨0, Results.empty⟩ := by decide +kernel
/-- Vector S9: the last words of the address space. -/
theorem test_split_top :
    respOf (stepOn State.reset (asmSplit (zeros 16) 0x1FFFFC 4)) =
      some ⟨0, { Results.empty with
        chunks := [⟨0x1FFFFC, 0, 4⟩, ⟨0x1FFFFD, 4, 4⟩, ⟨0x1FFFFE, 8, 4⟩, ⟨0x1FFFFF, 12, 4⟩] }⟩ := by decide +kernel
/-- Vector S10: one byte past it. -/
theorem test_split_past_top :
    respOf (stepOn State.reset (asmSplit (zeros 17) 0x1FFFFC 4)) = some ⟨14, Results.empty⟩ := by decide +kernel
/-- Vector H13. -/
theorem test_msghdr_read :
    respOf (stepOn (st testcat 6 Slots.empty) (asmMsghdrRd 0x1234 16)) =
      some ⟨0, { Results.empty with out := [0x40, 0x23, 0x01, 0x20] }⟩ := by decide +kernel
/-- Vector H6: an address that does not fit. -/
theorem test_msghdr_truncates :
    respOf (stepOn (st testcat 0 Slots.empty) (asmMsghdrWr 0x200000)) =
      some ⟨0x00010000, { Results.empty with out := [0x80, 0, 0, 0] }⟩ := by decide +kernel
/-- Vector M11 through a step. -/
theorem test_illegal_word :
    respOf (stepOn State.reset ⟨0, Slots.empty⟩) = some ⟨8, Results.empty⟩ := by decide +kernel
/-- A placed SPLIT runs first after reset, on empty slots: vector S5's status. -/
theorem test_placed_word : respOf (step (State.reset.withFetchWord 32 0x50)) = some ⟨13, Results.empty⟩ := by
  decide +kernel

/-! ### Witnesses: for each statement with hypotheses, a state and operands that meet them together. Where a statement
has several clauses, one for each, at the boundary of its range. -/

/-- From an outcome that is a next state satisfying `P`, that state. -/
theorem next_of (a : Answer) (P : State → Bool) (h : (match a with | .next t => P t | _ => false) = true) :
    ∃ t, a = .next t ∧ P t = true := by
  cases a with
  | next t => exact ⟨t, rfl, h⟩
  | fault _ => cases h
  | refused _ => cases h

/-- From an outcome whose response satisfies `P`, that next state and response. -/
theorem response_of (a : Answer) (P : Response → Bool)
    (h : (match a with | .next t => t.resp.elim false P | _ => false) = true) :
    ∃ t r, a = .next t ∧ t.resp = some r ∧ P r = true := by
  obtain ⟨t, ha, ht⟩ := next_of a (fun t => t.resp.elim false P) h
  cases hr : t.resp with
  | none => rw [hr] at ht; cases ht
  | some r => rw [hr] at ht; exact ⟨t, r, ha, hr, ht⟩

/-- `tableFine` as a Bool. -/
def fineB (v : Variant) (t : TableDesc) (recs : List Record) : Bool :=
  decide (recs.length ≤ t.maxCount) && (decide (recs.length = 0) ||
    match formOf t v with
    | none => false
    | some f => recs.all (fun r => decide (r.length = f.schema.length)))

theorem tableFine_of_fineB {v : Variant} {t : TableDesc} {recs : List Record} (h : fineB v t recs = true) :
    tableFine v t recs := by
  unfold fineB at h
  split at h <;> simp_all [tableFine]

/-- A table set is legal when the checks compute to true. -/
theorem legal_of {c : Config} {v : Variant} {ts : TableSet} (hd : DeviceMaps c ts.dev v)
    (hl : ts.tbl.length = c.catalog.length) (hf : (c.catalog.zip ts.tbl).all (fun p => fineB v p.1 p.2) = true) :
    TableSetLegal c v ts :=
  ⟨hd, hl, fun p hp => tableFine_of_fineB (List.all_eq_true.mp hf p hp)⟩

/-- No table has the block id `bid`. -/
theorem no_table {c : Config} {bid : Nat} {v : Variant} (h : ∀ t ∈ c.catalog, t.blockId ≠ bid) :
    ¬ ∃ f, HasTable c bid v f := fun ⟨_, t, ht, hb, _⟩ => h t ht hb

/-- No device identifier is `dev`. -/
theorem no_device {c : Config} {dev : U32} (h : ∀ d ∈ deviceList c.deviceIds, d.ident ≠ dev) :
    ¬ ∃ v, DeviceMaps c dev v := fun ⟨_, d, hd, he, _⟩ => h d hd he

/-- TESTCAT with buffers of at most `k` bytes. -/
def bounded (k : Nat) : Config := { testcat with maxBufBytes := some k }

/-- A command whose word is SPLIT's. -/
def splitCommand : Command := asmSplit (zeros 4) 0 4

/-- A state with mode 0, TESTCAT and a table set. -/
def withTables (c : Config) (ts : TableSet) (ph : U64) : State :=
  st c 4 { Slots.empty with tables := ts, a0 := ph }

theorem witness_reset :
    (∃ s : State, s.pending = [.resetEvent]) ∧
      ∃ t, exec .split (st testcat 5 (sl [] 0 4 0)) = .next t ∧ t.layoutSet = true := by
  refine ⟨⟨{ State.reset with pending := [.resetEvent] }, rfl⟩, next_of _ (fun t => t.layoutSet) ?_⟩
  decide +kernel

theorem witness_afterReset :
    wfConfig testcat = true ∧ usesAccessor .pack = true ∧ operandBitsLegal .pack (sl [] 0xFFFFFFFF 0 0) = true ∧
      (sl [] 7 0 0).a0.toNat < 8 ∧ illegalWord 0 := by decide +kernel

theorem witness_illegal :
    ConfigOk (st testcat 0 Slots.empty) ∧ illegalWord 0x00000400 ∧ illegalWord 0x00000142 ∧ illegalWord 0x00000240 ∧
      illegalWord 0x00000003 ∧ ¬ (0x100 : U64).toNat < 2 ^ 8 ∧ ¬ (0x100000000 : U64).toNat < 2 ^ 32 := by
  decide +kernel

theorem witness_step : ({ State.reset with pending := [.command splitCommand] } : State).pending =
    .command splitCommand :: [] ∧ decode splitCommand.word = .ok .split := ⟨rfl, rfl⟩

theorem witness_idle : State.reset.pending = [] := rfl

/-- A step from a state that meets the invariant and that no run from reset reaches (a response before SETMODE). -/
theorem witness_invariant :
    Inv { State.resetWith testcat with resp := some ⟨7 + 0x100, Results.empty⟩, pending := [.command splitCommand] } ∧
      ∃ t, step { State.resetWith testcat with
        resp := some ⟨7 + 0x100, Results.empty⟩, pending := [.command splitCommand] } = .next t ∧
          decide (t.cfg = testcat) = true := by
  refine ⟨by decide +kernel, next_of _ _ ?_⟩
  decide +kernel

/-- For the two frames and for idempotence: a next state of another command and one of SETMODE. -/
theorem witness_frames :
    Instr.fieldSet ≠ .setmode ∧
      (∃ t, exec .fieldSet (st testcat 0 (sl (zeros 4) 3 0 5)) = .next t ∧ t.layoutSet = true) ∧
      ∃ t, exec .setmode (st testcat 0 (sl [] 7 0 0)) = .next t ∧ decide (t.layout = 7) = true := by
  refine ⟨by decide, next_of _ (fun t => t.layoutSet) ?_, next_of _ _ ?_⟩ <;> decide +kernel

theorem witness_configOk : ConfigOk State.reset := by decide +kernel

theorem witness_illFormed :
    wfCat { testcat with hdrLen := ⟨31, 16⟩ } = false ∧
      ({ State.resetWith { testcat with hdrLen := ⟨31, 16⟩ } with pending := [.command splitCommand] } : State).pending =
        .command splitCommand :: [] := by decide +kernel

/-- Two states that differ in their responses and inputs only. -/
theorem witness_onlyModeAndOperands :
    let s := st testcat 6 (sl (zeros 4) 3 0 5)
    let u : State := { s with pending := [.resetEvent], resp := some ⟨8, Results.empty⟩ }
    u.cfg = s.cfg ∧ u.layout = s.layout ∧ u.layoutSet = s.layoutSet ∧ u.slots = s.slots ∧ u ≠ s ∧
      ∃ t, exec .fieldSet s = .next t ∧ t.layoutSet = true := by
  refine ⟨rfl, rfl, rfl, rfl, by decide +kernel, next_of _ (fun t => t.layoutSet) ?_⟩
  decide +kernel

theorem witness_modeNotSet :
    let s := State.resetWith testcat
    ConfigOk s ∧ s.layoutSet = false ∧ usesAccessor (.msghdr .read) = true ∧
      operandBitsLegal (.msghdr .read) s.slots = true := by decide +kernel

/-- A response with a status other than 0, and one of a command that does not use the accessor. -/
theorem witness_responses :
    (∃ t r, exec .crc32 (State.resetWith testcat) = .next t ∧ t.resp = some r ∧ decide (r.status ≠ 0) = true) ∧
      usesAccessor .split = false ∧
      ∃ t r, exec .split (State.resetWith testcat) = .next t ∧ t.resp = some r ∧ decide (r.status = 13) = true := by
  refine ⟨response_of _ _ ?_, rfl, response_of _ _ ?_⟩ <;> decide +kernel

theorem witness_setmode :
    ConfigOk (st testcat 0 (sl [] 7 0 0)) ∧ (sl [] 7 0 0).a0.toNat < 8 ∧ 8 ≤ (sl [] 8 0 0).a0.toNat := by
  decide +kernel

/-- The four clauses of 41_field_accessor R140: msb below lsb, 65 bits, one bit past the buffer, 5 bytes with BSWAP. -/
theorem witness_fieldChecks :
    ReadyToRead (st testcat 0 (sl (zeros 12) 3 4 0)) ∧ (3 < 4) ∧
      ReadyToRead (st testcat 0 (sl (zeros 12) 64 0 0)) ∧ (0 ≤ 64 ∧ 64 < 64 - 0 + 1) ∧
      ReadyToRead (st testcat 0 (sl (zeros 4) 32 0 0)) ∧ (0 ≤ 32 ∧ 32 - 0 + 1 ≤ 64 ∧ 8 * (zeros 4).length ≤ 32) ∧
      ReadyToRead (st testcat 2 (sl (zeros 5) 39 0 0)) ∧
        (39 < 8 * (zeros 5).length ∧ (0b010 : LayoutMode).getLsbD 1 = true ∧ (zeros 5).length % 4 ≠ 0) := by
  decide +kernel

/-- The four clauses of the FIELD_GET and FIELD_SET statements; the last at the full width of 64 bits. -/
theorem witness_fields :
    (ConfigOk (State.resetWith testcat) ∧ (State.resetWith testcat).layoutSet = false) ∧
      (ConfigOk (st (bounded 3) 0 (sl (zeros 4) 3 0 0)) ∧ ModeSet (st (bounded 3) 0 (sl (zeros 4) 3 0 0)) ∧
        ¬ InputFits (st (bounded 3) 0 (sl (zeros 4) 3 0 0))) ∧
      (ReadyToRead (st (bounded 4) 0 (sl (zeros 4) 32 0 0)) ∧ checkField 4 32 0 0b000 = some .invalidFieldSpec) ∧
      (ReadyToRead (st testcat 7 (sl (zeros 8) 63 0 0)) ∧ FieldLegal (zeros 8).length 63 0 0b111) := by decide +kernel

theorem witness_physBit :
    ((0b010 : LayoutMode).getLsbD 1 = true ∧ 4 % 4 = 0 ∧ 31 < 8 * 4) ∧
      ((0b001 : LayoutMode).getLsbD 1 = false ∧ (0b001 : LayoutMode).getLsbD 2 = false ∧ 23 < 8 * 3) := by decide

theorem witness_swap : 8 % 4 = 0 ∧ 7 < 8 := by decide

theorem witness_byteOrders :
    ((0b001 : LayoutMode).getLsbD 1 = false ∧ (0b001 : LayoutMode).getLsbD 2 = false ∧ 4 < 5) ∧ 1 < 2 ∧ 3 < 4 ∧ (0b110 : LayoutMode).getLsbD 0 = false ∧ 7 < 8 := by decide

/-- A field, a value of its full width, and a disjoint field just above it. -/
theorem witness_fieldRoundTrip :
    FieldLegal (zeros 4).length 11 4 0b110 ∧ (0xFF : U64).toNat < 2 ^ (11 - 4 + 1) ∧
      FieldLegal (zeros 4).length 31 12 0b110 ∧ 11 < 12 := by decide

theorem witness_load32 :
    ConfigOk (st (bounded 4) 1 Slots.empty) ∧ ModeSet (st (bounded 4) 1 Slots.empty) ∧ SizeFits (bounded 4) 4 ∧
      (0xFFFFFFFF : U64).toNat < 2 ^ 32 := by decide +kernel

theorem witness_crc :
    (ReadyToRead (st (bounded 8) 3 (sl (zeros 8) 0 0 0)) ∧ (zeros 8).length % 4 = 0) ∧
      (ReadyToRead (st testcat 0 (sl (zeros 5) 0 0 0)) ∧ (zeros 5).length % 4 ≠ 0) ∧
      (ConfigOk (st (bounded 7) 0 (sl (zeros 8) 0 0 0)) ∧ ¬ InputFits (st (bounded 7) 0 (sl (zeros 8) 0 0 0))) ∧
      (ReadyToRead (st testcat 5 Slots.empty) ∧ Slots.empty.inBuf = []) := by decide +kernel

theorem witness_flippedBit : (zeros 4).length % 4 = 0 ∧ 3 < (zeros 4).length ∧ 7 < 8 := by decide

/-- ENTRY_DECODE: an entry of 8 bytes where 7 are the limit, no table 0x05, 4 bytes for ALPHA's 8, and 8 bytes. -/
theorem witness_entryDecode :
    (ConfigOk (st (bounded 7) 0 (sl (zeros 8) 0x06 0 0)) ∧ ModeSet (st (bounded 7) 0 (sl (zeros 8) 0x06 0 0)) ∧
        ¬ InputFits (st (bounded 7) 0 (sl (zeros 8) 0x06 0 0))) ∧
      (ReadyToRead (st testcat 0 (sl (zeros 8) 0x05 0 0)) ∧ ¬ ∃ f, HasTable testcat 0x05 .v0 f) ∧
      (ReadyToRead (st testcat 0 (sl (zeros 4) 0x06 0 0)) ∧ HasTable testcat 0x06 .v0 alphaForm ∧
        (zeros 4).length ≠ alphaForm.size) ∧
      (ReadyToRead (st testcat 0 (sl (zeros 8) 0x06 0 0)) ∧ (zeros 8).length = alphaForm.size) :=
  ⟨by decide +kernel, ⟨by decide +kernel, no_table (by decide +kernel)⟩, by decide +kernel, by decide +kernel⟩

/-- ENTRY_ENCODE: no table 0x05, a record of one slot for BETA's two, and one of two, its first slot too wide. -/
theorem witness_entryEncode :
    (ConfigOk (st testcat 0 (sl [] 0x4E 0 0)) ∧ ModeSet (st testcat 0 (sl [] 0x4E 0 0))) ∧
      (¬ ∃ f, HasTable testcat 0x05 .v1 f) ∧
      (HasTable testcat 0x4E .v1 betaForm ∧ [(0 : U64)].length ≠ betaForm.schema.length) ∧
      ([(4 : U64), 0].length = betaForm.schema.length ∧ recordExceeds betaForm [4, 0] = true) :=
  ⟨by decide +kernel, no_table (by decide +kernel), by decide +kernel, by decide +kernel⟩

theorem witness_entryRoundTrip :
    alphaForm.wellFormed = true ∧ [(0x3FF : U64), 0x1FFF, 0x1FFFFFFFF, 0xF].length = alphaForm.schema.length ∧
      recordExceeds alphaForm [0x3FF, 0x1FFF, 0x1FFFFFFFF, 0xF] = false ∧ (zeros 8).length = alphaForm.size := by
  decide +kernel

/-- PACK of vector K6, its 40 bytes exactly `MAX_BUF_BYTES`, and one byte less. -/
theorem witness_pack :
    ConfigOk (withTables (bounded 40) tablesK6 0xFFFFFFFF) ∧ ModeSet (withTables (bounded 40) tablesK6 0xFFFFFFFF) ∧
      (0xFFFFFFFF : U64).toNat < 2 ^ 32 ∧ TableSetLegal (bounded 40) .v1 tablesK6 ∧
      SizeFits (bounded 40) (imageLength (bounded 40) .v1 tablesK6) ∧
      ConfigOk (withTables (bounded 39) tablesK6 0) ∧ TableSetLegal (bounded 39) .v1 tablesK6 ∧
      ¬ SizeFits (bounded 39) (imageLength (bounded 39) .v1 tablesK6) :=
  ⟨by decide +kernel, rfl, by decide, legal_of (by decide +kernel) rfl (by decide +kernel), by decide +kernel,
    by decide +kernel, legal_of (by decide +kernel) rfl (by decide +kernel), by decide +kernel⟩

/-- The premises of the per-table clauses of the preflight statement, for both of its commands. -/
def PreflightAt (s : State) (v : Variant) (k : Nat) (t : TableDesc) (recs : List Record) : Prop :=
  ConfigOk s ∧ ModeSet s ∧ s.slots.a0.toNat < 2 ^ 32 ∧ DeviceMaps s.cfg s.slots.tables.dev v ∧
    s.slots.tables.tbl.length = s.cfg.catalog.length ∧ s.cfg.catalog[k]? = some t ∧ s.slots.tables.tbl[k]? = some recs ∧
    ∀ p ∈ (s.cfg.catalog.zip s.slots.tables.tbl).take k, tableFine v p.1 p.2

/-- A state for the last table of `c`, `k` empty tables before it. -/
def lastTable (c : Config) (dev : U32) (k : Nat) (recs : List Record) : State :=
  withTables c ⟨dev, List.replicate k [] ++ [recs]⟩ 0xFFFFFFFF

theorem preflightAt_of {s : State} {v : Variant} {k : Nat} {t : TableDesc} {recs : List Record}
    (h : ConfigOk s ∧ ModeSet s ∧ s.slots.a0.toNat < 2 ^ 32 ∧ DeviceMaps s.cfg s.slots.tables.dev v ∧
      s.slots.tables.tbl.length = s.cfg.catalog.length ∧ s.cfg.catalog[k]? = some t ∧ s.slots.tables.tbl[k]? = some recs ∧
      ((s.cfg.catalog.zip s.slots.tables.tbl).take k).all (fun p => fineB v p.1 p.2) = true) :
    PreflightAt s v k t recs :=
  ⟨h.1, h.2.1, h.2.2.1, h.2.2.2.1, h.2.2.2.2.1, h.2.2.2.2.2.1, h.2.2.2.2.2.2.1,
    fun p hp => tableFine_of_fineB (List.all_eq_true.mp h.2.2.2.2.2.2.2 p hp)⟩

/-- The preflight's whole-set clauses: an unknown device, and two lists for three tables. -/
theorem witness_preflight :
    (ConfigOk (withTables testcat ⟨0, []⟩ 0) ∧ ModeSet (withTables testcat ⟨0, []⟩ 0) ∧
        ¬ ∃ v, DeviceMaps testcat 0 v) ∧
      (DeviceMaps testcat 0x9E00030E .v0 ∧ [[], ([] : List Record)].length ≠ testcat.catalog.length) :=
  ⟨⟨by decide +kernel, rfl, no_device (by decide +kernel)⟩, by decide +kernel⟩

/-- The preflight's table clauses: a record for an absent table, two records for a `max_count` of 1, and one record of
one slot for BETA's two. -/
theorem witness_preflightTables :
    (PreflightAt (lastTable (smallcat 9) 0xAE00030E 1 [[0, 0]]) .v1 1 ⟨"BETA", 0x4E, 1, some betaForm, none⟩ [[0, 0]] ∧
        formOf ⟨"BETA", 0x4E, 1, some betaForm, none⟩ .v1 = none) ∧
      (PreflightAt (lastTable testcat 0x9E00030E 2 [[0, 0], [0, 0]]) .v0 2
          ⟨"BETA", 0x4E, 1, some betaForm, some betaForm⟩ [[0, 0], [0, 0]] ∧
        1 < [[(0 : U64), 0], [0, 0]].length) ∧
      (PreflightAt (lastTable testcat 0x9E00030E 2 [[0]]) .v0 2 ⟨"BETA", 0x4E, 1, some betaForm, some betaForm⟩ [[0]] ∧
        ∃ r ∈ [[(0 : U64)]], r.length ≠ betaForm.schema.length) :=
  ⟨⟨preflightAt_of (by decide +kernel), rfl⟩, ⟨preflightAt_of (by decide +kernel), by decide⟩,
    ⟨preflightAt_of (by decide +kernel), by decide⟩⟩

theorem witness_packUnpack :
    (∃ t r, exec .pack (withTables testcat tablesK6 0xCAFEF00D) = .next t ∧ t.resp = some r ∧
      decide (r.status = 0) = true) ∧ DeviceMaps testcat tablesK6.dev .v1 :=
  ⟨response_of _ _ (by decide +kernel), by decide +kernel⟩

/-- The image of K6's table set is the 40 bytes of vector K6, and its table set is legal. -/
theorem witness_image :
    imageLayout (bounded 40) .v1 0b100 tablesK6 0xCAFEF00D = imageK6 ∧ TableSetLegal (bounded 40) .v1 tablesK6 ∧
      ReadyToRead (st (bounded 40) 4 (sl imageK6 0 0 0)) :=
  ⟨by decide +kernel, legal_of (by decide +kernel) rfl (by decide +kernel), by decide +kernel⟩

/-- The image of vector U7: a length of 3 words for ALPHA's entries of 8 bytes, and 4 bytes after the image. -/
theorem witness_declaredLength :
    imageU7 ++ zeros 4 = bufferOr (u32F 0x9E00030E 0b100) ++ withCrc (bufferOr (hdrF testcat 0x06 3 0b100)) 0b100 ++
        withCrc [0, 1, 2, 3, 4, 5, 6, 7, 8, 9, 10, 11] 0b100 ++ bufferOr (hdrF testcat 0 0 0b100) ++
        [0xDE, 0xAD, 0xBE, 0xEF] ++ zeros 4 ∧
      ReadyToRead (st testcat 4 (sl (imageU7 ++ zeros 4) 0 0 0)) ∧ DeviceMaps testcat 0x9E00030E .v0 ∧
      testcat.catalog[0]? = some ⟨"ALPHA", 0x06, 4, some alphaForm, some alphaForm⟩ ∧ 0 < 3 ∧
      3 < 2 ^ testcat.hdrLen.width ∧ 4 * 3 / alphaForm.size ≤ 4 ∧ 4 * 3 % alphaForm.size ≠ 0 := by decide +kernel

/-- `BlockLegal` as a Bool. -/
def blockB (c : Config) (v : Variant) (m : LayoutMode) (d : ImageBlock) : Bool :=
  decide (d.table ∈ c.catalog) && decide (d.body.length % 4 = 0) && decide (0 < d.body.length) &&
    decide (d.body.length / 4 < 2 ^ c.hdrLen.width) &&
    decide (ReadsAsHeader c m d.header d.table.blockId (d.body.length / 4)) &&
    match formOf d.table v with
    | none => false
    | some f => decide (d.body.length / f.size ≤ d.table.maxCount)

theorem blocksLegal_of {c : Config} {v : Variant} {m : LayoutMode} {ds : List ImageBlock}
    (h : ds.all (blockB c v m) = true ∧ (ds.map (fun d => d.table.blockId)).Nodup) : BlocksLegal c v m ds := by
  refine ⟨fun d hd => ?_, h.2⟩
  have hb := List.all_eq_true.mp h.1 d hd
  unfold blockB at hb
  split at hb <;> simp_all [BlockLegal, ReadsAsHeader]

/-- The BETA block of image K2. -/
def betaBlock : ImageBlock :=
  ⟨⟨"BETA", 0x4E, 1, some betaForm, some betaForm⟩, [0x4E, 0, 0, 0, 0, 0, 0, 1], [0x80, 0x01, 0x23, 0x45]⟩

/-- The same block with every header bit outside the two fields set. -/
def betaSet : ImageBlock := { betaBlock with header := [0x4E, 0xFF, 0xFF, 0xFF, 0xFF, 0, 0, 1] }

/-- The ALPHA block of vector U7: one entry and 4 bytes more. -/
def alphaBlock : ImageBlock :=
  ⟨⟨"ALPHA", 0x06, 4, some alphaForm, some alphaForm⟩, [6, 0, 0, 0, 0, 0, 0, 3], [0, 1, 2, 3, 4, 5, 6, 7, 8, 9, 10, 11]⟩

/-- An image under mode 4 for a V0 device: blocks, then `tail`. -/
def imageOf (ds : List ImageBlock) (tail : Buffer) : Buffer :=
  [0x9E, 0x00, 0x03, 0x0E] ++ (blocksBytes 0b100 ds ++ tail)

/-- A state with such an image in `IN`. -/
def withImage (ds : List ImageBlock) (tail : Buffer) : State := st testcat 4 (sl (imageOf ds tail) 0 0 0)

/-- The premises about an image's device identifier and its first blocks. -/
abbrev StartsWith (s : State) (ds : List ImageBlock) (tail : Buffer) : Prop :=
  ReadyToRead s ∧ 4 ≤ s.slots.inBuf.length ∧ get32F (s.slots.inBuf.take 4) s.layout = .ok 0x9E00030E ∧
    DeviceMaps s.cfg 0x9E00030E .v0 ∧ s.slots.inBuf.drop 4 = blocksBytes s.layout ds ++ tail

/-- BETA before ALPHA, against `CATALOG` order, the first with undeclared header bits set, the second with a remainder;
a header of zeros; 5 bytes after it. The blocks are those of vector U7 and, but for those bits, of image K2. -/
theorem witness_blocksInAnyOrder :
    StartsWith (withImage [betaSet, alphaBlock] (zeros 8 ++ zeros 5)) [betaSet, alphaBlock] (zeros 8 ++ zeros 5) ∧
      BlocksLegal testcat .v0 0b100 [betaSet, alphaBlock] ∧ hlenF testcat (zeros 8) 0b100 = .ok 0 ∧
      blocksWarn .v0 [betaSet, alphaBlock] = 2 ∧ blockBytes 0b100 alphaBlock = (imageU7.drop 4).take 28 ∧
      blockBytes 0b100 betaBlock = (imageBeta.drop 4).take 20 :=
  ⟨by decide +kernel, blocksLegal_of (by decide +kernel), by decide +kernel, by decide +kernel, by decide +kernel,
    by decide +kernel⟩

/-- A second header of BETA after BETA and ALPHA. -/
theorem witness_repeated :
    let again := withCrc betaSet.header 0b100
    StartsWith (withImage [betaBlock, alphaBlock] again) [betaBlock, alphaBlock] again ∧
      BlocksLegal testcat .v0 0b100 [betaBlock, alphaBlock] ∧ betaBlock ∈ [betaBlock, alphaBlock] ∧
      1 < 2 ^ testcat.hdrLen.width ∧ ReadsAsHeader testcat 0b100 betaSet.header 0x4E 1 :=
  ⟨by decide +kernel, blocksLegal_of (by decide +kernel), by decide +kernel, by decide +kernel⟩

/-- PREPARE_UPLOAD of VALCAT's minimal table set, its image ending with the address space. -/
theorem witness_prepareUpload :
    let s := { State.reset with layout := 4, layoutSet := true }
    ConfigOk s ∧ ModeSet s ∧ TableSetLegal s.cfg .v0 (tsMin [] [[100]]) ∧
      (∀ b ∈ ruleConditions s.cfg (tsMin [] [[100]]) .v0, b = true) ∧
      (0x1FFFFF : U64).toNat < 2 ^ 32 ∧ SizeFits s.cfg (imageLength s.cfg .v0 (tsMin [] [[100]])) ∧
      (0x1FFFFF - 0x2D : U64).toNat + imageLength s.cfg .v0 (tsMin [] [[100]]) / 4 ≤ 2 ^ 21 :=
  ⟨by decide +kernel, rfl, legal_of (by decide +kernel) rfl (by decide +kernel), by decide +kernel, by decide,
    by decide +kernel, by decide +kernel⟩

/-- An image of 16 bytes: a device identifier and a header of zeros. -/
theorem witness_terminalHeader :
    let s := st (bounded 16) 4 (sl ([0x9E, 0x00, 0x03, 0x0E] ++ zeros 12) 0 0 0)
    ReadyToRead s ∧ 16 ≤ s.slots.inBuf.length ∧ get32F (s.slots.inBuf.take 4) s.layout = .ok 0x9E00030E ∧
      DeviceMaps s.cfg 0x9E00030E .v0 ∧ hlenF s.cfg ((s.slots.inBuf.drop 4).take 8) s.layout = .ok 0 := by
  decide +kernel

theorem witness_trailing :
    (∃ t r, exec .unpack (st (bounded 41) 4 (sl imageK6 0 0 0)) = .next t ∧ t.resp = some r ∧
      decide (r.status = 0) = true) ∧ SizeFits (bounded 41) (imageK6 ++ [0xFF]).length :=
  ⟨response_of _ _ (by decide +kernel), by decide +kernel⟩

/-- UNPACK: 4 bytes where 3 are the limit; 3 bytes; an unknown device. -/
theorem witness_unpackStart :
    (ConfigOk (st (bounded 3) 0 (sl (zeros 4) 0 0 0)) ∧ ModeSet (st (bounded 3) 0 (sl (zeros 4) 0 0 0)) ∧
        ¬ InputFits (st (bounded 3) 0 (sl (zeros 4) 0 0 0))) ∧
      (ReadyToRead (st testcat 0 (sl (zeros 3) 0 0 0)) ∧ (zeros 3).length < 4) ∧
      (ReadyToRead (st testcat 0 (sl (zeros 4) 0 0 0)) ∧ get32F ((zeros 4).take 4) 0b000 = .ok 0 ∧
        ¬ ∃ v, DeviceMaps testcat 0 v) :=
  ⟨by decide +kernel, by decide +kernel, by decide +kernel, by decide +kernel, no_device (by decide +kernel)⟩

/-- The premises of the header clauses of the UNPACK statement, at the header with which `tail` begins. -/
abbrev HeaderAt (ds : List ImageBlock) (tail : Buffer) (lenw bid : U64) (crc stored : U32) : Prop :=
  StartsWith (withImage ds tail) ds tail ∧ 12 ≤ tail.length ∧ hlenF testcat (tail.take 8) 0b100 = .ok lenw ∧ lenw ≠ 0 ∧
    hbidF testcat (tail.take 8) 0b100 = .ok bid ∧ crc32F (tail.take 8) 0b100 = .ok crc ∧
    get32F ((tail.drop 8).take 4) 0b100 = .ok stored

theorem witness_blocksLegal : BlocksLegal testcat .v0 0b100 [] ∧ BlocksLegal testcat .v0 0b100 [alphaBlock] ∧
    BlocksLegal testcat .v0 0b100 [betaSet] :=
  ⟨blocksLegal_of (by decide +kernel), blocksLegal_of (by decide +kernel), blocksLegal_of (by decide +kernel)⟩

/-- First and after an ALPHA block: 11 bytes, a header CRC that differs, vector U20's block id 7, and ALPHA again. -/
theorem witness_unpackHeader :
    (StartsWith (withImage [] ((imageU20.drop 4).take 11)) [] ((imageU20.drop 4).take 11) ∧
        StartsWith (withImage [alphaBlock] ((imageU20.drop 4).take 11)) [alphaBlock] ((imageU20.drop 4).take 11)) ∧
      HeaderAt [alphaBlock] ((imageU20.set 12 0x6E).drop 4) 1 7 0x6FBE641C 0x6EBE641C ∧
      (HeaderAt [alphaBlock] (imageU20.drop 4) 1 7 0x6FBE641C 0x6FBE641C ∧ ¬ ∃ f, HasTable testcat 7 .v0 f) ∧
      (HeaderAt [alphaBlock] (imageU7.drop 4) 3 6 0xF8D78527 0xF8D78527 ∧
        (6 : U64).toNat ∈ [alphaBlock].map (fun d => d.table.blockId)) :=
  ⟨by decide +kernel, by decide +kernel, ⟨by decide +kernel, no_table (by decide +kernel)⟩, by decide +kernel⟩

/-- After an ALPHA block and a BETA header: two entries where `max_count` is 1 (its CRC from a standard CRC-32), a
body one byte short of its data CRC, and a data CRC that differs. -/
theorem witness_unpackData :
    let two := withCrc (bufferOr (hdrF testcat 0x4E 2 0b100)) 0b100
    let cut := (imageBeta.drop 4).take 19
    let bad := (imageBeta.set 20 0x42).drop 4
    betaBlock.table ∈ testcat.catalog ∧ formOf betaBlock.table .v0 = some betaForm ∧
      (0x4E : U64).toNat ∉ [alphaBlock].map (fun d => d.table.blockId) ∧
      ((∃ c, crc32F (two.take 8) 0b100 = .ok c ∧ HeaderAt [alphaBlock] two 2 0x4E c c) ∧
        betaBlock.table.maxCount < 4 * (2 : U64).toNat / betaForm.size) ∧
      (HeaderAt [alphaBlock] cut 1 0x4E 0x3A5D5E24 0x3A5D5E24 ∧ cut.length < 16 + 4 * (1 : U64).toNat) ∧
      HeaderAt [alphaBlock] bad 1 0x4E 0x3A5D5E24 0x3A5D5E24 ∧ 16 + 4 * (1 : U64).toNat ≤ bad.length ∧
      crc32F ((bad.drop 12).take (4 * (1 : U64).toNat)) 0b100 = .ok 0x43263DCB ∧
      get32F ((bad.drop (12 + 4 * (1 : U64).toNat)).take 4) 0b100 = .ok 0x42263DCB :=
  ⟨by decide +kernel, by decide +kernel, by decide +kernel,
    ⟨⟨0x28E8F1CA, by decide +kernel, by decide +kernel⟩, by decide +kernel⟩, by decide +kernel, by decide +kernel⟩

/-- CHECK_VALID: every condition holds (vector V1); the memory budget's, the eleventh, is the first that fails (vector
V2); and the first condition fails (a schedule without entry points). -/
theorem witness_checkValid :
    ConfigOk State.reset ∧ TableSetLegal Config.atReset .v0 (tsMin [] [[100]]) ∧
      (∀ b ∈ ruleConditions Config.atReset (tsMin [] [[100]]) .v0, b = true) ∧
      TableSetLegal Config.atReset .v0 (tsMin [] [[101]]) ∧
      (ruleConditions Config.atReset (tsMin [] [[101]]) .v0)[10]? = some false ∧
      (∀ b ∈ (ruleConditions Config.atReset (tsMin [] [[101]]) .v0).take 10, b = true) ∧
      TableSetLegal Config.atReset .v0 (tsMin [[0]] [[100]]) ∧
      (ruleConditions Config.atReset (tsMin [[0]] [[100]]) .v0)[0]? = some false :=
  ⟨by decide +kernel, legal_of (by decide +kernel) rfl (by decide +kernel), by decide +kernel,
    legal_of (by decide +kernel) rfl (by decide +kernel), by decide +kernel, by decide +kernel,
    legal_of (by decide +kernel) rfl (by decide +kernel), by decide +kernel⟩

/-- The two clauses of 44_container_framer R246. -/
theorem witness_schedule :
    let c := Config.atReset
    ConfigOk State.reset ∧ TableSetLegal c .v0 (tsMin [[0]] [[100]]) ∧
      0 < entryCount (tsMin [[0]] [[100]]) c.roles.schedule ∧
      entryCount (tsMin [[0]] [[100]]) c.roles.scheduleEntryPoints = 0 ∧
      TableSetLegal c .v0 (tsMin [] [[100]]) ∧ entryCount (tsMin [] [[100]]) c.roles.schedule = 0 ∧
      (∀ b ∈ requiredConditions c (tsMin [] [[100]]), b = true) ∧ withinBudget c (tsMin [] [[100]]) .v0 = true ∧
      c.extraRules = [] :=
  ⟨by decide +kernel, legal_of (by decide +kernel) rfl (by decide +kernel), by decide +kernel, by decide +kernel,
    legal_of (by decide +kernel) rfl (by decide +kernel), by decide +kernel, by decide +kernel, by decide +kernel, rfl⟩

/-- The five clauses of SPLIT: too long, a base of 2^21, a chunk size of 6, one word too many, and the last word. -/
theorem witness_split :
    (ConfigOk (st (bounded 3) 0 (sl (zeros 4) 0 4 0)) ∧ ¬ InputFits (st (bounded 3) 0 (sl (zeros 4) 0 4 0))) ∧
      (InputFits (st (bounded 4) 0 (sl (zeros 4) 0x200000 4 0)) ∧ 2 ^ 21 ≤ (0x200000 : U64).toNat) ∧
      ((0x1FFFFF : U64).toNat < 2 ^ 21 ∧ (6 : U64).toNat % 4 ≠ 0) ∧
      (0 < (4 : U64).toNat ∧ (4 : U64).toNat % 4 = 0 ∧ 2 ^ 21 < (0x1FFFFF : U64).toNat + (5 + 3) / 4) ∧
      (0x1FFFFF : U64).toNat + (4 + 3) / 4 ≤ 2 ^ 21 := by decide +kernel

/-- A SPLIT of 43 bytes in chunks of 4: eleven chunks (45_chunk_splitter R264). -/
theorem witness_chunks :
    (zeros 43).length = 10 * (4 : U64).toNat + 3 ∧
      ∃ t r, exec .split (st testcat 0 (sl (zeros 43) 0 4 0)) = .next t ∧ t.resp = some r ∧
        decide (r.status = 0 ∧ r.results.chunks.length = 11) = true := by
  refine ⟨by decide, response_of _ _ ?_⟩
  decide +kernel

theorem witness_msghdr :
    (ConfigOk (State.resetWith testcat) ∧ (State.resetWith testcat).layoutSet = false) ∧
      (ModeSet (st testcat 5 (sl [] 0x200000 64 0)) ∧ 2 ^ 21 ≤ (0x200000 : U64).toNat ∧ 2 ^ 6 ≤ (64 : U64).toNat) := by
  decide +kernel

end Sys2Proof.Tests
end

/-! SUPPORT. Proofs about `LAYOUT_SET` (10_state R35): the statuses of replies, what each command that does not use the
accessor can answer, and what the flag gates. -/

namespace Sys2Proof.Machine

/-! ### The response a command leaves -/

/-- The status of an error reply is the error's code (60_exceptions R291). -/
theorem status_raise (w : Warn) (e : Err) : (Reply.raise w e).response.status = e.code := by
  have := e.code_bounds
  rw [Reply.response_raise, status_respWord]
  omega

theorem status_raising (e : Err) : (raising e).response.status = e.code := status_raise _ e

/-- The status of an OK reply is 0 (60_exceptions R291). -/
theorem status_done (w : Warn) (r : Results) : (Reply.done w r).response.status = 0 := by
  simp

/-- The state a command leaves, for every command but SETMODE (10_state R34). -/
theorem exec_eq_next_of_ne_setmode {i : Instr} {s t : State} (hi : i ≠ .setmode) (h : exec i s = .next t) :
    t = respond s (replyFor i s).response := by
  rw [exec_eq_answer i s hi, answer_eq_next] at h
  exact h.2

/-- The state SETMODE leaves: its operand turned away, or the mode established (40_mode_control R120). -/
theorem exec_setmode_eq_next {s t : State} (h : exec .setmode s = .next t) :
    t = respond s (raising .invalidCommand).response ∨
      t = respond (establish s (BitVec.ofNat 3 s.slots.a0.toNat)) doneNothing.response := by
  rcases exec_setmode_cases s with ⟨-, hs⟩ | ⟨-, hs⟩ <;> rw [hs, answer_eq_next] at h
  · exact .inl h.2
  · exact .inr h.2

/-! ### The flag: set by SETMODE, cleared by reset alone -/

/-- A legal SETMODE under a well-formed configuration (40_mode_control R120). -/
theorem exec_setmode_of_legal (s : State) (hc : ConfigOk s) (ha : s.slots.a0.toNat < 8) :
    exec .setmode s = .next (respond (establish s (BitVec.ofNat 3 s.slots.a0.toNat)) doneNothing.response) := by
  rcases exec_setmode_cases s with ⟨hn, -⟩ | ⟨-, hs⟩
  · exact absurd ha hn
  · rw [hs]
    exact answer_of_configOk _ _ hc

/-- No command clears `LAYOUT_SET` (10_state R35). -/
theorem exec_keeps_layoutSet (i : Instr) (s t : State) (h : exec i s = .next t) (hs : s.layoutSet = true) :
    t.layoutSet = true := by
  by_cases hi : i = .setmode
  · subst hi
    rcases exec_setmode_eq_next h with rfl | rfl
    · exact hs
    · rfl
  · rw [exec_eq_next_of_ne_setmode hi h]
    exact hs

/-- A step that takes a reset event (70_reset R320). -/
theorem step_resetEvent (s : State) (rest : List Input) (h : s.pending = .resetEvent :: rest) :
    step s = .next (applyReset s rest) := by
  rw [step, fetch_reset s rest h]

/-! ### What the flag gates -/

/-- While `LAYOUT_SET` is 0 an accessor command with legal operand bits replies ModeNotSet (10_state R35): each one's
reply is `withMode`, PACK's behind the check of its operand bits. -/
theorem replyFor_of_mode_unset (i : Instr) (s : State) (hs : s.layoutSet = false) (hi : usesAccessor i = true)
    (hb : operandBitsLegal i s.slots = true) : replyFor i s = raising .modeNotSet := by
  cases i with
  | setmode | getmode | checkValid | split => exact absurd hi (by decide)
  | pack =>
    have hp : packSlotLegal s = true := hb
    simp only [replyFor, packReply, hp, Bool.true_eq_false, if_false]
    exact withMode_unset s _ hs
  | _ =>
    simp only [replyFor, fieldGetReply, fieldSetReply, crc32Reply, entryDecodeReply, entryEncodeReply, unpackReply,
      msghdrReply, withMode_unset s _ hs]

/-- The error ending of the statements is `answer` of a raised error under a well-formed configuration. -/
theorem answer_modeNotSet (s : State) (hc : ConfigOk s) : answer s (raising .modeNotSet) = endsError s 9 0 0 :=
  answer_of_configOk s _ hc

/-- While `LAYOUT_SET` is 0 an accessor command with legal operand bits ends with ModeNotSet (60_exceptions R291). -/
theorem exec_of_mode_unset (i : Instr) (s : State) (hc : ConfigOk s) (hs : s.layoutSet = false)
    (hi : usesAccessor i = true) (hb : operandBitsLegal i s.slots = true) : exec i s = endsError s 9 0 0 := by
  have hne : i ≠ .setmode := by
    rintro rfl
    exact absurd hi (by decide)
  rw [exec_eq_answer i s hne, replyFor_of_mode_unset i s hs hi hb, answer_modeNotSet s hc]

/-! ### The commands that never wait for the mode -/

/-- The one error of `variantOf` (44_container_framer R211). -/
theorem variantOf_error {c : Config} {dev : U32} {e : Err} (h : variantOf c dev = .error e) : e = .invalidDeviceId := by
  unfold variantOf at h
  split at h <;> cases h
  rfl

/-- The errors of one table's preflight (44_container_framer R216). -/
theorem preflightTable_error {v : Variant} {t : TableDesc} {recs : List Record} {e : Err}
    (h : preflightTable v t recs = some e) : e ∈ [Err.unknownBlockId, .entryCountExceeded, .invalidLength] := by
  unfold preflightTable at h
  split at h
  · split at h <;> cases h
    decide
  · split at h
    · cases h
      decide
    · split at h <;> cases h
      decide

/-- The errors of the tables' preflight are those of one table (44_container_framer R216). -/
theorem preflightTables_error {v : Variant} {ts : List TableDesc} {tbl : List (List Record)} {e : Err}
    (h : preflightTables v ts tbl = some e) : e ∈ [Err.unknownBlockId, .entryCountExceeded, .invalidLength] := by
  induction ts, tbl using preflightTables.induct v with
  | case1 t ts recs rest e' he =>
    rw [preflightTables, he] at h
    cases h
    exact preflightTable_error he
  | case2 t ts recs rest he ih =>
    rw [preflightTables, he] at h
    exact ih h
  | case3 => simp [preflightTables] at h

/-- The errors of the preflight (44_container_framer R216). -/
theorem preflightF_error {c : Config} {ts : TableSet} {e : Err} (h : preflightF c ts = .error e) :
    e ∈ [Err.invalidDeviceId, .unknownBlockId, .entryCountExceeded, .invalidLength] := by
  unfold preflightF at h
  split at h
  next he =>
    cases h
    simp [variantOf_error he]
  next =>
    split at h
    · cases h
      decide
    · split at h <;> cases h
      next he => exact List.mem_cons_of_mem _ (preflightTables_error he)

/-- The errors of `SPLIT_f` (45_chunk_splitter R260, R261). -/
theorem splitF_error {N base mx : Nat} {e : Err} (h : splitF N base mx = .error e) :
    e ∈ [Err.addressOutOfRange, .invalidChunkSize] := by
  unfold splitF at h
  split at h
  · cases h
    decide
  · split at h
    · cases h
      decide
    · split at h <;> cases h
      decide

/-- CHECK_VALID ends with the preflight's error, a failed rule, or OK (44_container_framer R245). -/
theorem status_checkValidReply (s : State) : (checkValidReply s).response.status ∈ allowedStatuses .checkValid := by
  unfold checkValidReply
  rcases replyOf_cases (preflightF s.cfg s.slots.tables) _ with ⟨e, he, hr⟩ | ⟨v, -, hr⟩ <;> rw [hr]
  · rw [status_raising]
    have := preflightF_error he
    revert this
    cases e <;> simp [Err.code, allowedStatuses]
  · split
    · rw [status_raising]
      simp [Err.code, allowedStatuses]
    · rw [doneNothing, status_done]
      decide

/-- SPLIT ends with InvalidLength, an error of `SPLIT_f`, or OK (45_chunk_splitter R262). -/
theorem status_splitReply (s : State) : (splitReply s).response.status ∈ allowedStatuses .split := by
  unfold splitReply
  rcases withInput_cases s _ with ⟨-, hr⟩ | ⟨-, hr⟩ <;> rw [hr]
  · decide
  · rcases replyOf_cases (splitF _ _ _) doneChunks with ⟨e, he, hr⟩ | ⟨c, -, hr⟩ <;> rw [hr]
    · rw [status_raising]
      have := splitF_error he
      revert this
      cases e <;> simp [Err.code, allowedStatuses]
    · rw [doneChunks, status_done]
      decide

/-- SETMODE, GETMODE, CHECK_VALID and SPLIT return only the statuses of 60_exceptions R291. -/
theorem status_allowed_of_not_usesAccessor {i : Instr} {s t : State} {r : Response} (hi : usesAccessor i = false)
    (h : exec i s = .next t) (hr : t.resp = some r) : r.status ∈ allowedStatuses i := by
  by_cases hs : i = .setmode
  · subst hs
    rcases exec_setmode_eq_next h with rfl | rfl <;> rw [respond_resp, Option.some.injEq] at hr <;> subst hr
    · rw [status_raising]
      decide
    · rw [doneNothing, status_done]
      decide
  · rw [exec_eq_next_of_ne_setmode hs h] at hr
    cases hr
    cases i with
    | setmode => exact absurd rfl hs
    | getmode =>
      rw [replyFor, doneR0, status_done]
      decide
    | checkValid => exact status_checkValidReply s
    | split => exact status_splitReply s
    | _ => exact absurd hi (by simp [usesAccessor])

/-- ModeNotSet is no status of a command that does not use the accessor (60_exceptions R291). -/
theorem modeNotSet_not_allowed {i : Instr} (hi : usesAccessor i = false) : 9 ∉ allowedStatuses i := by
  cases i with
  | setmode | getmode | checkValid | split => simp [allowedStatuses]
  | _ => exact absurd hi (by simp [usesAccessor])

/-- Settles O20: `LAYOUT_SET` follows SETMODE and reset alone, `withMode` gates every accessor command, and the statuses
of the other four do not hold ModeNotSet. -/
theorem accessorCommandsNeedTheModeSet : Obligations.AccessorCommandsNeedTheModeSet := by
  refine ⟨State.resetWith_layoutSet, fun s hc ha => ⟨_, exec_setmode_of_legal s hc ha, rfl⟩, exec_keeps_layoutSet,
    fun s t rest hp h => ?_, exec_of_mode_unset, fun i s t r hi h hr h9 => ?_⟩
  · rw [step_resetEvent s rest hp] at h
    cases h
    rfl
  · exact modeNotSet_not_allowed hi (h9 ▸ status_allowed_of_not_usesAccessor hi h hr)

end Sys2Proof.Machine

/-! SUPPORT. Proofs about the command word and the operand slots (30_encoding): which words the decoder turns away, how
an illegal command ends (R99), and which slots reach a command (R92). -/

namespace Sys2Proof.Machine

/-! ### What a decoded word is -/

theorem cmdVar_eq_v1 (w : U32) : cmdVar w = .v1 ↔ w.getLsbD 8 = true := by
  simp [cmdVar]

theorem cmdDir_eq_write (w : U32) : cmdDir w = .write ↔ w.getLsbD 9 = true := by
  simp [cmdDir]

/-- The opcodes of the map (30_encoding R98). -/
theorem mem_opcodes_of_opcodeMap {op : Nat} {v : Variant} {d : Direction} {i : Instr}
    (h : opcodeMap op v d = some i) :
    op ∈ [0x01, 0x02, 0x10, 0x11, 0x20, 0x30, 0x31, 0x40, 0x41, 0x42, 0x50, 0x51] := by
  unfold opcodeMap at h
  split at h
  case h_13 => cases h
  all_goals decide

/-- A word that decodes passed the four checks of the decoder (30_encoding R99). -/
theorem decode_eq_ok {w : U32} {i : Instr} (h : decode w = .ok i) :
    opcodeMap (cmdOp w) (cmdVar w) (cmdDir w) = some i ∧ cmdReserved w = 0 ∧
      ¬ (cmdVar w = .v1 ∧ cmdOp w ≠ 0x30 ∧ cmdOp w ≠ 0x31) ∧ ¬ (cmdDir w = .write ∧ cmdOp w ≠ 0x51) := by
  unfold decode at h
  split at h
  · cases h
  next j hj =>
    split at h
    · cases h
    next hres =>
      split at h
      · cases h
      next hvar =>
        split at h <;> cases h
        next hdir => exact ⟨hj, not_not.mp hres, hvar, hdir⟩

/-- No word that decodes meets a condition of 30_encoding R99. -/
theorem not_illegalWord_of_decode {w : U32} {i : Instr} (h : decode w = .ok i) : ¬ illegalWord w := by
  obtain ⟨hmap, hres, hvar, hdir⟩ := decode_eq_ok h
  rw [cmdVar_eq_v1] at hvar
  rw [cmdDir_eq_write] at hdir
  rintro (hop | hr | ⟨hv, hop⟩ | hd)
  · exact hop (mem_opcodes_of_opcodeMap hmap)
  · exact hr hres
  · exact hvar ⟨hv, by simpa [cmdOp] using hop⟩
  · exact hdir hd

/-- The decoder turns away every word of 30_encoding R99. -/
theorem decode_of_illegalWord {w : U32} (hw : illegalWord w) : ∃ e, decode w = .error e := by
  cases hd : decode w with
  | error e => exact ⟨e, rfl⟩
  | ok i => exact absurd hw (not_illegalWord_of_decode hd)

/-! ### How an illegal command ends -/

theorem step_of_decode_error {s : State} {c : Command} {rest : List Input} {e : Illegal}
    (hp : s.pending = .command c :: rest) (hd : decode c.word = .error e) :
    step s = illegalCommand (loadCommand s c rest) := by
  rw [step, fetch_illegal s c rest e hp hd]

theorem step_of_decode_ok {s : State} {c : Command} {rest : List Input} {i : Instr}
    (hp : s.pending = .command c :: rest) (hd : decode c.word = .ok i) :
    step s = exec i (loadCommand s c rest) := by
  rw [step, fetch_command s c rest i hp hd]

/-- SETMODE turns away an operand that is no mode (40_mode_control R120). -/
theorem exec_setmode_of_not_lt {s : State} (ha : ¬ s.slots.a0.toNat < 8) :
    exec .setmode s = answer s (raising .invalidCommand) := by
  rcases exec_setmode_cases s with ⟨-, hs⟩ | ⟨hlt, -⟩
  · exact hs
  · exact absurd hlt ha

/-- SETMODE establishes an operand that is a mode (40_mode_control R120). -/
theorem exec_setmode_of_lt {s : State} (ha : s.slots.a0.toNat < 8) :
    exec .setmode s = answer (establish s (BitVec.ofNat 3 s.slots.a0.toNat)) doneNothing := by
  rcases exec_setmode_cases s with ⟨hn, -⟩ | ⟨-, hs⟩
  · exact absurd ha hn
  · exact hs

/-- PACK turns away an operand with a nonzero must-be-0 bit before it looks at the mode (30_encoding R94, R99). -/
theorem exec_pack_of_not_lt {s : State} (ha : ¬ s.slots.a0.toNat < 2 ^ 32) :
    exec .pack s = answer s (raising .invalidCommand) := by
  have hp : packSlotLegal s = false := decide_eq_false ha
  rw [exec_eq_answer .pack s nofun, replyFor, packReply, if_pos hp]

/-- The error ending of the statements is `answer` of InvalidCommand under a well-formed configuration. -/
theorem answer_invalidCommand (s : State) (hc : ConfigOk s) : answer s (raising .invalidCommand) = endsError s 8 0 0 :=
  answer_of_configOk s _ hc

/-- Settles O3: the decoder turns an illegal word away, SETMODE and PACK an illegal operand, and each of the three
answers InvalidCommand. -/
theorem illegalCommandsRaiseInvalidCommand : Obligations.IllegalCommandsRaiseInvalidCommand := by
  intro s c rest hc hp hill
  have hend := answer_invalidCommand (loadCommand s c rest) hc
  rcases hill with hw | ⟨hw, ha⟩ | ⟨hw, ha⟩
  · obtain ⟨e, he⟩ := decode_of_illegalWord hw
    exact (step_of_decode_error hp he).trans hend
  · have hd : decode c.word = .ok .setmode := hw ▸ rfl
    have ha8 : ¬ (loadCommand s c rest).slots.a0.toNat < 8 := by
      rw [loadCommand_slots]
      omega
    rw [step_of_decode_ok hp hd, exec_setmode_of_not_lt ha8]
    exact hend
  · have hd : decode c.word = .ok .pack := hw ▸ rfl
    rw [step_of_decode_ok hp hd, exec_pack_of_not_lt (s := loadCommand s c rest) ha]
    exact hend

/-! ### The slots that reach a command -/

/-- `answer` keeps the slots and does not read them. -/
theorem answer_with_slots {s t : State} {r : Reply} (sl : Slots) (h : answer s r = .next t) :
    answer { s with slots := sl } r = .next { t with slots := sl } := by
  obtain ⟨hc, rfl⟩ := (answer_eq_next s t r).mp h
  exact answer_of_configOk _ r hc

/-- A reply is made of the used slots alone: each operand of a command is read from a slot that `keepUsed` keeps
(30_encoding R94). -/
theorem replyFor_keepUsed (i : Instr) (s : State) :
    replyFor i { s with slots := keepUsed i s.slots } = replyFor i s := by
  cases i <;> rfl

/-- SETMODE with every slot but `A0` emptied. -/
theorem exec_setmode_keepUsed {s t : State} (h : exec .setmode s = .next t) :
    exec .setmode { s with slots := keepUsed .setmode s.slots } =
      .next { t with slots := keepUsed .setmode s.slots } := by
  by_cases ha : s.slots.a0.toNat < 8
  · rw [exec_setmode_of_lt ha] at h
    rw [exec_setmode_of_lt (by exact ha)]
    exact answer_with_slots _ h
  · rw [exec_setmode_of_not_lt ha] at h
    rw [exec_setmode_of_not_lt (by exact ha)]
    exact answer_with_slots _ h

/-- A command with its unused slots emptied ends in the same state but for the slots. -/
theorem exec_keepUsed {i : Instr} {s t : State} (h : exec i s = .next t) :
    exec i { s with slots := keepUsed i s.slots } = .next { t with slots := keepUsed i s.slots } := by
  by_cases hi : i = .setmode
  · subst hi
    exact exec_setmode_keepUsed h
  · rw [exec_eq_answer i s hi] at h
    rw [exec_eq_answer i _ hi, replyFor_keepUsed]
    exact answer_with_slots _ h

/-- Settles O19: the command ends in the same state but for the emptied slots. -/
theorem unusedSlotsAreIgnored : Obligations.UnusedSlotsAreIgnored :=
  fun _ _ _ h => ⟨_, exec_keepUsed h, rfl, rfl, rfl⟩

end Sys2Proof.Machine

/-! SUPPORT. Proofs about Layout Mode control (40_mode_control): what SETMODE establishes or turns away (R120), and the
mode byte GETMODE reads (R123). -/

namespace Sys2Proof.Machine

/-! ### The mode byte -/

/-- The mode byte is `LAYOUT` with `LAYOUT_SET` in bit 7: the bits of `LAYOUT` end below bit 3, so the sum in its
definition does not carry (40_mode_control R123). -/
theorem getLsbD_modeByte (s : State) (j : Nat) :
    (modeByte s).getLsbD j = if j = 7 then s.layoutSet else s.layout.getLsbD j := by
  have hlt : s.layout.toNat < 2 ^ 7 := Nat.lt_trans s.layout.isLt (by decide)
  have hbit := Nat.testBit_two_pow_mul_add s.layoutSet.toNat hlt j
  rw [modeByte, BitVec.getLsbD_ofNat, Nat.mul_comm, hbit, Nat.testBit_bool_toNat]
  by_cases h7 : j < 7
  · have hne : j ≠ 7 := by omega
    have h64 : j < 64 := by omega
    simp [h7, hne, h64, BitVec.testBit_toNat]
  · by_cases he : j = 7
    · simp [he]
    · have hz : j - 7 ≠ 0 := by omega
      simp [h7, he, hz, BitVec.getLsbD_of_ge s.layout j (by omega)]

/-- Settles O24: GETMODE answers the mode byte. -/
theorem getmodeReadsTheMode : Obligations.GetmodeReadsTheMode := by
  intro s hc
  refine ⟨modeByte s, answer_of_configOk s _ hc, ?_, fun j hj => ?_, fun j hj hne => ?_⟩
  · rw [getLsbD_modeByte, if_pos rfl]
  · rw [getLsbD_modeByte, if_neg (by omega)]
  · rw [getLsbD_modeByte, if_neg hne]
    exact BitVec.getLsbD_of_ge s.layout j hj

/-! ### SETMODE -/

/-- Settles O23: an operand below 8 is established, any other is turned away. -/
theorem setmodeEstablishesTheMode : Obligations.SetmodeEstablishesTheMode := by
  intro s hc
  refine ⟨exec_setmode_of_legal s hc, fun ha => ?_⟩
  rw [exec_setmode_of_not_lt (by omega)]
  exact answer_invalidCommand s hc

end Sys2Proof.Machine

/-! SUPPORT. Proofs about the bit-field accessor (41_field_accessor): the field checks (R140), the physical bit of a
logical bit (R141 to R143), the bits a field read and a field write give (R146, R148), and the two commands (R150,
R151). -/

namespace Sys2Proof.Machine

/-! ### How an answer ends -/

/-- The response word a reply builds is the one written out in the statements (30_encoding R93). -/
theorem respWord_eq_responseWord {st sub : Nat} (w : Warn) (hst : st < 2 ^ 8) (hsub : sub < 2 ^ 8) :
    respWord st sub w = responseWord st sub w.code := by
  rw [respWord, responseWord, Nat.mod_eq_of_lt hst, Nat.mod_eq_of_lt hsub]

/-- A raised error ends the command with its code; `SUB` is 0 but for ConfigValidationFailure (60_exceptions R294). -/
theorem answer_raising {s : State} {e : Err} (hc : ConfigOk s) (he : e.code ≠ 7) :
    answer s (raising e) = endsError s e.code 0 0 := by
  have hcode : e.code < 2 ^ 8 := Nat.lt_of_le_of_lt (Err.code_bounds e).2 (by decide)
  rw [answer_of_configOk s _ hc, raising, Reply.response_raise, Err.subReason_eq_zero e he,
    respWord_eq_responseWord _ hcode (by decide)]
  rfl

/-- An OK reply ends the command with its warnings and results (30_encoding R93). -/
theorem answer_done {s : State} (hc : ConfigOk s) (w : Warn) (r : Results) :
    answer s (.done w r) = endsOk s w.code r := by
  rw [answer_of_configOk s _ hc, Reply.response_done, respWord_eq_responseWord _ (by decide) (by decide)]
  rfl

/-! ### The checks -/

/-- The check fails with an InvalidFieldSpec or an InvalidLength (41_field_accessor R140). -/
theorem checkField_error {L msb lsb : Nat} {m : LayoutMode} {e : Err} (h : checkField L msb lsb m = some e) :
    e = .invalidFieldSpec ∨ e = .invalidLength := by
  unfold checkField at h
  repeat' split at h
  all_goals cases h <;> simp

theorem checkField_of_msb_lt_lsb {L msb lsb : Nat} (m : LayoutMode) (h : msb < lsb) :
    checkField L msb lsb m = some .invalidFieldSpec := by
  rw [checkField, if_pos h]

theorem checkField_of_too_wide {L msb lsb : Nat} (m : LayoutMode) (hle : lsb ≤ msb) (h : 64 < msb - lsb + 1) :
    checkField L msb lsb m = some .invalidFieldSpec := by
  rw [checkField, if_neg (Nat.not_lt.mpr hle), Config.maxFieldWidth, if_pos h]

theorem checkField_of_past_end {L msb lsb : Nat} (m : LayoutMode) (hle : lsb ≤ msb) (hw : msb - lsb + 1 ≤ 64)
    (h : 8 * L ≤ msb) : checkField L msb lsb m = some .invalidFieldSpec := by
  rw [checkField, if_neg (Nat.not_lt.mpr hle), Config.maxFieldWidth, if_neg (Nat.not_lt.mpr hw), if_pos h]

theorem checkField_of_partial_word {L msb lsb : Nat} {m : LayoutMode} (hle : lsb ≤ msb) (hw : msb - lsb + 1 ≤ 64)
    (hlt : msb < 8 * L) (hm : m.getLsbD 1 = true ∨ m.getLsbD 2 = true) (h : L % 4 ≠ 0) :
    checkField L msb lsb m = some .invalidLength := by
  rw [checkField, if_neg (Nat.not_lt.mpr hle), Config.maxFieldWidth, if_neg (Nat.not_lt.mpr hw),
    if_neg (Nat.not_le.mpr hlt), if_pos]
  simpa [bswapOn, wrevOn, h] using hm

/-! ### The two commands -/

/-- FIELD_GET past the mode and the input checks (41_field_accessor R150). -/
theorem exec_fieldGet_ready {s : State} (h : ReadyToRead s) :
    exec .fieldGet s =
      answer s (replyOf (fieldGetF s.slots.inBuf s.slots.a0.toNat s.slots.a1.toNat s.layout) doneR0) := by
  obtain ⟨-, hmode, hfits⟩ := h
  rw [exec_eq_answer .fieldGet s nofun, replyFor, fieldGetReply, withMode_set s _ hmode, withInput_fits s _ hfits]
  rfl

/-- FIELD_SET past the mode and the input checks (41_field_accessor R151). -/
theorem exec_fieldSet_ready {s : State} (h : ReadyToRead s) :
    exec .fieldSet s =
      answer s (replyOf (fieldSetF s.slots.inBuf s.slots.a0.toNat s.slots.a1.toNat s.slots.a2 s.layout)
        fun r => doneOut r.2 r.1) := by
  obtain ⟨-, hmode, hfits⟩ := h
  rw [exec_eq_answer .fieldSet s nofun, replyFor, fieldSetReply, withMode_set s _ hmode, withInput_fits s _ hfits]
  rfl

/-- The two commands raise InvalidLength for an `IN` longer than `MAX_BUF_BYTES` (20_memory R62). -/
theorem exec_field_of_not_inputFits {s : State} {i : Instr} (hi : i ∈ [Instr.fieldGet, Instr.fieldSet])
    (hc : ConfigOk s) (hmode : ModeSet s) (hfits : ¬ InputFits s) : exec i s = endsError s 10 0 0 := by
  have hreply : replyFor i s = raising .invalidLength := by
    rcases List.mem_pair.mp hi with rfl | rfl
    · rw [replyFor, fieldGetReply, withMode_set s _ hmode, withInput_tooLong s _ hfits]
    · rw [replyFor, fieldSetReply, withMode_set s _ hmode, withInput_tooLong s _ hfits]
  have hne : i ≠ .setmode := by
    rintro rfl
    exact absurd hi (by decide)
  rw [exec_eq_answer i s hne, hreply]
  exact answer_raising hc (by decide)

/-- The two commands end with the error of the field check (60_exceptions R297). -/
theorem exec_field_of_checkField {s : State} {i : Instr} {e : Err} (hi : i ∈ [Instr.fieldGet, Instr.fieldSet])
    (h : ReadyToRead s)
    (he : checkField s.slots.inBuf.length s.slots.a0.toNat s.slots.a1.toNat s.layout = some e) :
    exec i s = endsError s e.code 0 0 := by
  have hexec : exec i s = answer s (raising e) := by
    rcases List.mem_pair.mp hi with rfl | rfl
    · rw [exec_fieldGet_ready h, fieldGetF, he, replyOf_error]
    · rw [exec_fieldSet_ready h, fieldSetF, he, replyOf_error]
  have hcode : e.code ≠ 7 := by
    rcases checkField_error he with rfl | rfl <;> decide
  rw [hexec, answer_raising h.1 hcode]

/-- Settles O25: each clause picks one branch of `checkField`, and both commands end with the error it names. -/
theorem fieldChecksRunInOrder : Obligations.FieldChecksRunInOrder := by
  intro s hready i hi
  refine ⟨fun h => ?_, fun hle h => ?_, fun hle hw h => ?_, fun hle hw hlt hm h => ?_⟩
  · exact exec_field_of_checkField hi hready (checkField_of_msb_lt_lsb _ h)
  · exact exec_field_of_checkField hi hready (checkField_of_too_wide _ hle h)
  · exact exec_field_of_checkField hi hready (checkField_of_past_end _ hle hw h)
  · exact exec_field_of_checkField hi hready (checkField_of_partial_word hle hw hlt hm h)

/-! ### Reading a field -/

/-- Every bit of the value read: the field's bits, zero-extended (41_field_accessor R146). -/
theorem testBit_readBits_eq (B : Buffer) (lsb : Nat) (m : LayoutMode) (w j : Nat) :
    (readBits B lsb m w).testBit j = (decide (j < w) && logicalBit B m (lsb + j)) := by
  by_cases hj : j < w
  · simp [hj, testBit_readBits B lsb m w j hj]
  · have hlt : readBits B lsb m w < 2 ^ j :=
      Nat.lt_of_lt_of_le (readBits_lt B lsb m w) (Nat.pow_le_pow_right (by decide) (Nat.not_lt.mp hj))
    simp [hj, Nat.testBit_lt_two_pow hlt]

/-- The same for the 64-bit result of a field of at most 64 bits (41_field_accessor R146). -/
theorem getLsbD_ofNat_readBits (B : Buffer) (lsb : Nat) (m : LayoutMode) {w : Nat} (hw : w ≤ 64) (j : Nat) :
    (BitVec.ofNat 64 (readBits B lsb m w)).getLsbD j = (decide (j < w) && logicalBit B m (lsb + j)) := by
  rw [BitVec.getLsbD_ofNat, testBit_readBits_eq]
  by_cases hj : j < w
  · simp [hj, Nat.lt_of_lt_of_le hj hw]
  · simp [hj]

/-- FIELD_GET of a legal field (41_field_accessor R150). -/
theorem exec_fieldGet_legal {s : State} (h : ReadyToRead s)
    (hl : FieldLegal s.slots.inBuf.length s.slots.a0.toNat s.slots.a1.toNat s.layout) :
    exec .fieldGet s = endsOk s 0 { Results.empty with
      r0 := BitVec.ofNat 64
        (readBits s.slots.inBuf s.slots.a1.toNat s.layout (s.slots.a0.toNat - s.slots.a1.toNat + 1)) } := by
  rw [exec_fieldGet_ready h, fieldGetF_legal _ _ _ _ hl, replyOf_ok]
  exact answer_done h.1 Warn.none _

/-- Settles O26: the mode, the input and the field check gate the command in turn; past them it reads the field bit by
bit. -/
theorem fieldGetReturnsTheField : Obligations.FieldGetReturnsTheField := by
  intro s hc
  refine ⟨fun hs => exec_of_mode_unset .fieldGet s hc hs rfl rfl,
    fun hm hf => exec_field_of_not_inputFits (by decide) hc hm hf,
    fun hm hf e he => exec_field_of_checkField (by decide) ⟨hc, hm, hf⟩ he,
    fun hm hf hl => ⟨_, exec_fieldGet_legal ⟨hc, hm, hf⟩ hl, fun j => ?_⟩⟩
  obtain ⟨-, hw, -⟩ := hl
  rw [getLsbD_ofNat_readBits _ _ _ hw]
  simp only [Nat.lt_succ_iff]

/-! ### The physical bit of a logical bit -/

/-- The byte swap stays in its word, so in a buffer of whole words (41_field_accessor R141 (a)). -/
theorem swapInWord_lt {m : LayoutMode} {L a : Nat} (hL : bswapOn m = true → L % 4 = 0) (ha : a < L) :
    swapInWord m a < L := by
  unfold swapInWord
  split
  next hb =>
    have := hL hb
    omega
  next => exact ha

/-- Swapping twice gives the address back. -/
theorem swapInWord_swapInWord (m : LayoutMode) (a : Nat) : swapInWord m (swapInWord m a) = a := by
  unfold swapInWord
  split
  · omega
  · rfl

/-- The word reversal stays in a buffer of whole words (41_field_accessor R141 (c)). -/
theorem reverseWords_lt {m : LayoutMode} {L a : Nat} (hL : wrevOn m = true → L % 4 = 0) (ha : a < L) :
    reverseWords m L a < L := by
  unfold reverseWords
  split
  next hb =>
    have := hL hb
    omega
  next => exact ha

/-- Reversing twice gives the address back. -/
theorem reverseWords_reverseWords {m : LayoutMode} {L a : Nat} (hL : wrevOn m = true → L % 4 = 0) (ha : a < L) :
    reverseWords m L (reverseWords m L a) = a := by
  unfold reverseWords
  split
  next hb =>
    have := hL hb
    omega
  next => rfl

/-- Mirroring keeps a bit inside its byte (41_field_accessor R142). -/
theorem bitpos_lt {j : Nat} (m : LayoutMode) (hj : j < 8) : bitpos j m < 8 := by
  unfold bitpos
  split <;> omega

/-- Mirroring twice gives the bit back. -/
theorem bitpos_bitpos {j : Nat} (m : LayoutMode) (hj : j < 8) : bitpos (bitpos j m) m = j := by
  unfold bitpos
  split <;> omega

section
variable {m : LayoutMode} {L : Nat} (hL : (m.getLsbD 1 = true ∨ m.getLsbD 2 = true) → L % 4 = 0)
include hL

/-- Every logical byte has a byte of the buffer (41_field_accessor R143). -/
theorem phys_lt {k : Nat} (hk : k < L) : phys k L m < L :=
  reverseWords_lt (fun h => hL (.inr h)) (swapInWord_lt (fun h => hL (.inl h)) (by omega))

/-- Different logical bytes have different bytes: each stage of `phys` undoes itself (41_field_accessor R143). -/
theorem phys_inj {k k' : Nat} (hk : k < L) (hk' : k' < L) (h : phys k L m = phys k' L m) : k = k' := by
  have hswap : ∀ a, a < L → swapInWord m a < L := fun a => swapInWord_lt fun h => hL (.inl h)
  have hrev : ∀ a, a < L → reverseWords m L (reverseWords m L a) = a :=
    fun a => reverseWords_reverseWords fun h => hL (.inr h)
  have hs : swapInWord m (L - 1 - k) = swapInWord m (L - 1 - k') := by
    rw [← hrev _ (hswap (L - 1 - k) (by omega)), ← hrev _ (hswap (L - 1 - k') (by omega))]
    exact congrArg (reverseWords m L) h
  have hbase := congrArg (swapInWord m) hs
  rw [swapInWord_swapInWord, swapInWord_swapInWord] at hbase
  omega

/-- Every logical bit has a bit of the buffer (41_field_accessor R143). -/
theorem physBit_lt {p : Nat} (hp : p < 8 * L) : (physBit p L m).1 < L ∧ (physBit p L m).2 < 8 :=
  ⟨phys_lt hL (by omega), bitpos_lt m (Nat.mod_lt _ (by decide))⟩

/-- Different logical bits have different physical bits (41_field_accessor R143). -/
theorem physBit_inj {p q : Nat} (hp : p < 8 * L) (hq : q < 8 * L) (h : physBit p L m = physBit q L m) : p = q := by
  obtain ⟨hbyte, hbit⟩ := Prod.mk.inj h
  have hdiv : p / 8 = q / 8 := phys_inj hL (by omega) (by omega) hbyte
  have hmod : p % 8 = q % 8 := by
    rw [← bitpos_bitpos m (Nat.mod_lt p (by decide)), hbit, bitpos_bitpos m (Nat.mod_lt q (by decide))]
  omega

end

/-! ### Writing a field -/

/-- A logical bit after one logical bit was written (41_field_accessor R148). -/
theorem logicalBit_setBufBit {B : Buffer} {m : LayoutMode} {p q : Nat} (b : Bool)
    (hL : (m.getLsbD 1 = true ∨ m.getLsbD 2 = true) → B.length % 4 = 0) (hq : q < 8 * B.length)
    (hp : p < 8 * B.length) :
    logicalBit (setBufBit B (physBit q B.length m) b) m p = if p = q then b else logicalBit B m p := by
  obtain ⟨hbyte, hbit⟩ := physBit_lt hL hq
  have hpos : physBit p B.length m = physBit q B.length m ↔ p = q :=
    ⟨physBit_inj hL hp hq, fun h => by rw [h]⟩
  rw [logicalBit, setBufBit_length, bufBit_setBufBit B _ _ b hbyte hbit, if_congr hpos rfl rfl, logicalBit]

/-- A logical bit after a field write: the value's bit inside the field, the bit that was there outside it
(41_field_accessor R148). -/
theorem logicalBit_writeBits {B : Buffer} {lsb w p : Nat} {m : LayoutMode} (x : U64)
    (hL : (m.getLsbD 1 = true ∨ m.getLsbD 2 = true) → B.length % 4 = 0) (hw : lsb + w ≤ 8 * B.length)
    (hp : p < 8 * B.length) :
    logicalBit (writeBits B lsb x m w) m p =
      if lsb ≤ p ∧ p < lsb + w then x.getLsbD (p - lsb) else logicalBit B m p := by
  induction w with
  | zero => rw [writeBits, if_neg (by omega)]
  | succ i ih =>
    have hlen := writeBits_length B lsb x m i
    have hset := logicalBit_setBufBit (B := writeBits B lsb x m i) (q := lsb + i) (x.getLsbD i) (by rwa [hlen])
      (by omega) (hlen ▸ hp)
    rw [hlen] at hset
    rw [writeBits, hset, ih (by omega)]
    by_cases hpi : p = lsb + i
    · have hin : lsb ≤ p ∧ p < lsb + (i + 1) := by omega
      rw [if_pos hpi, if_pos hin, hpi, Nat.add_sub_cancel_left]
    · have hiff : (lsb ≤ p ∧ p < lsb + i) ↔ (lsb ≤ p ∧ p < lsb + (i + 1)) := by omega
      rw [if_neg hpi, if_congr hiff rfl rfl]

/-- The truncation warning as a number (41_field_accessor R148). -/
theorem code_truncated_truncates (w : Nat) (x : U64) :
    (Warn.truncated (truncates w x)).code = if w < 64 ∧ 2 ^ w ≤ x.toNat then 1 else 0 := by
  by_cases h : w < 64 ∧ 2 ^ w ≤ x.toNat
  · simp [Warn.code, Warn.truncated, truncates, h]
  · have ht : truncates w x = false := by simpa [truncates] using h
    rw [ht, if_neg h]
    rfl

/-- FIELD_SET of a legal field (41_field_accessor R151). -/
theorem exec_fieldSet_legal {s : State} (h : ReadyToRead s)
    (hl : FieldLegal s.slots.inBuf.length s.slots.a0.toNat s.slots.a1.toNat s.layout) :
    exec .fieldSet s =
      endsOk s
        (if s.slots.a0.toNat - s.slots.a1.toNat + 1 < 64 ∧
            2 ^ (s.slots.a0.toNat - s.slots.a1.toNat + 1) ≤ s.slots.a2.toNat then 1 else 0)
        { Results.empty with
          out := writeBits s.slots.inBuf s.slots.a1.toNat s.slots.a2 s.layout
            (s.slots.a0.toNat - s.slots.a1.toNat + 1) } := by
  rw [exec_fieldSet_ready h, fieldSetF_legal _ _ _ _ _ hl, replyOf_ok, doneOut, answer_done h.1,
    code_truncated_truncates]

/-- Settles O27: the mode, the input and the field check gate the command in turn; past them it writes the field bit by
bit, and no bit outside the field shares a physical bit with it. -/
theorem fieldSetReplacesExactlyTheField : Obligations.FieldSetReplacesExactlyTheField := by
  intro s hc
  refine ⟨fun hs => exec_of_mode_unset .fieldSet s hc hs rfl rfl,
    fun hm hf => exec_field_of_not_inputFits (by decide) hc hm hf,
    fun hm hf e he => exec_field_of_checkField (by decide) ⟨hc, hm, hf⟩ he,
    fun hm hf hl => ?_⟩
  have hexec := exec_fieldSet_legal ⟨hc, hm, hf⟩ hl
  obtain ⟨hle, -, hlt, hL⟩ := hl
  refine ⟨_, hexec, writeBits_length _ _ _ _ _, fun j hj => ?_, fun p hp hout => ?_⟩
  · rw [logicalBit_writeBits _ hL (by omega) (by omega), if_pos (by omega), Nat.add_sub_cancel_left]
  · rw [writeBits_length] at hp
    rw [logicalBit_writeBits _ hL (by omega) hp, if_neg (by omega)]

end Sys2Proof.Machine

/-! SUPPORT. Proofs about the CRC-32 generator (42_crc32): how CRC32 ends with the error or the value of `CRC32_f`
(R175), the lengths it refuses (R174), and the CRC of nothing (R176). -/

namespace Sys2Proof.Machine

/-- CRC32 turns an `IN` longer than `MAX_BUF_BYTES` away (20_memory R62). -/
theorem exec_crc32_of_not_inputFits {s : State} (hc : ConfigOk s) (hmode : ModeSet s) (hfits : ¬ InputFits s) :
    exec .crc32 s = endsError s 10 0 0 := by
  rw [exec_eq_answer .crc32 s nofun, replyFor, crc32Reply, withMode_set s _ hmode, withInput_tooLong s _ hfits]
  exact answer_raising hc (by decide)

/-- CRC32 past the mode and the input checks (42_crc32 R175). -/
theorem exec_crc32_ready {s : State} (h : ReadyToRead s) :
    exec .crc32 s =
      answer s (replyOf (crc32F s.slots.inBuf s.layout) fun c => doneR0 (BitVec.ofNat 64 c.toNat)) := by
  obtain ⟨-, hmode, hfits⟩ := h
  rw [exec_eq_answer .crc32 s nofun, replyFor, crc32Reply, withMode_set s _ hmode, withInput_fits s _ hfits]

/-- CRC32 ends with the error of `CRC32_f` (42_crc32 R175). -/
theorem exec_crc32_of_crc32F_error {s : State} {e : Err} (h : ReadyToRead s)
    (he : crc32F s.slots.inBuf s.layout = .error e) (hcode : e.code ≠ 7) : exec .crc32 s = endsError s e.code 0 0 := by
  rw [exec_crc32_ready h, he, replyOf_error, answer_raising h.1 hcode]

/-- CRC32 returns the value of `CRC32_f`, zero-extended (42_crc32 R175). -/
theorem exec_crc32_of_crc32F_ok {s : State} {c : U32} (h : ReadyToRead s)
    (hcrc : crc32F s.slots.inBuf s.layout = .ok c) :
    exec .crc32 s = endsOk s 0 { Results.empty with r0 := BitVec.ofNat 64 c.toNat } := by
  rw [exec_crc32_ready h, hcrc, replyOf_ok]
  exact answer_done h.1 Warn.none _

/-- Reversing zero gives zero (00_scope R17). -/
theorem bitrev_zero {n : Nat} : bitrev (0 : BitVec n) = 0 := by
  ext i hi
  simp [bitrev, BitVec.getElem_reverse]

/-- With no word to take, the final XOR cancels the seed (42_crc32 R176). -/
theorem crc32F_nil (m : LayoutMode) : crc32F [] m = .ok 0 := by
  have hcancel : Config.crcSeed ^^^ 0xFFFFFFFF = 0 := BitVec.xor_self
  have hcrc : crc32F [] m = .ok (bitrev (Config.crcSeed ^^^ 0xFFFFFFFF)) := rfl
  rw [hcrc, hcancel, bitrev_zero]

/-- Settles O36: a buffer that is too long stops at the input check, any other illegal length at `CRC32_f`. -/
theorem crcOfIllegalLengthsIsRefused : Obligations.CrcOfIllegalLengthsIsRefused := by
  intro s hc hmode hbad
  by_cases hfits : InputFits s
  · have hlen : s.slots.inBuf.length % 4 ≠ 0 := hbad.resolve_left (not_not_intro hfits)
    exact exec_crc32_of_crc32F_error ⟨hc, hmode, hfits⟩ (crc32F_error _ _ hlen) (by decide)
  · exact exec_crc32_of_not_inputFits hc hmode hfits

/-- Settles O37: `CRC32_f` of the empty buffer is 0. -/
theorem crcOfNothingIsZero : Obligations.CrcOfNothingIsZero := by
  intro s hready hnil
  have hcrc : crc32F s.slots.inBuf s.layout = .ok 0 := by rw [hnil, crc32F_nil]
  exact exec_crc32_of_crc32F_ok hready hcrc

end Sys2Proof.Machine

/-! SUPPORT. Proofs about the table entry codec (43_entry_codec): which table the lookup finds (R191), what reading and
writing the fields of an entry gives (R192, R193), and how ENTRY_DECODE and ENTRY_ENCODE end (R195, R196). -/

namespace Sys2Proof.Machine

/-! ### The table lookup -/

/-- A table found is one of the list, with the block id asked for and a form for the variant (43_entry_codec R191). -/
theorem lookupFrom_eq_some {bid : Nat} {v : Variant} {ts : List TableDesc} {i : Nat} {t : Found}
    (h : lookupFrom bid v ts i = some t) :
    t.table ∈ ts ∧ t.table.blockId = bid ∧ formOf t.table v = some t.form := by
  induction ts generalizing i with
  | nil => cases h
  | cons u ts ih =>
    rw [lookupFrom] at h
    split at h
    next f hf =>
      split at h
      next hid =>
        cases h
        exact ⟨List.mem_cons_self, hid, hf⟩
      next =>
        obtain ⟨hmem, hrest⟩ := ih h
        exact ⟨List.mem_cons_of_mem u hmem, hrest⟩
    next =>
      obtain ⟨hmem, hrest⟩ := ih h
      exact ⟨List.mem_cons_of_mem u hmem, hrest⟩

/-- When no table is found, none of the list with that block id is present for the variant (43_entry_codec R191). -/
theorem lookupFrom_eq_none {bid : Nat} {v : Variant} {ts : List TableDesc} {i : Nat}
    (h : lookupFrom bid v ts i = none) : ∀ t ∈ ts, t.blockId = bid → formOf t v = none := by
  induction ts generalizing i with
  | nil => simp
  | cons u ts ih =>
    rw [lookupFrom] at h
    rw [List.forall_mem_cons]
    split at h
    next f hf =>
      split at h
      next => cases h
      next hid => exact ⟨fun hu => absurd hu hid, ih h⟩
    next hf => exact ⟨fun _ => hf, ih h⟩

/-- Distinct block ids as a list without repetitions (00_scope R12 item 1). -/
theorem nodup_blockIds {ts : List TableDesc} (h : blockIdsDistinct ts = true) : (ts.map TableDesc.blockId).Nodup := by
  induction ts with
  | nil => exact List.nodup_nil
  | cons t ts ih =>
    simp only [blockIdsDistinct, Bool.and_eq_true, List.all_eq_true, decide_eq_true_eq] at h
    obtain ⟨hne, hts⟩ := h
    rw [List.map_cons, List.nodup_cons]
    refine ⟨fun hmem => ?_, ih hts⟩
    obtain ⟨u, hu, heq⟩ := List.mem_map.mp hmem
    exact hne u hu heq.symm

/-- A block id names at most one table of a well-formed catalog (00_scope R12 item 1). -/
theorem table_eq_of_blockId_eq {c : Config} (hc : wfConfig c = true) {t u : TableDesc} (ht : t ∈ c.catalog)
    (hu : u ∈ c.catalog) (h : t.blockId = u.blockId) : t = u := by
  simp only [wfConfig, wfCat, Bool.and_eq_true] at hc
  obtain ⟨⟨⟨⟨⟨⟨hids, -⟩, -⟩, -⟩, -⟩, -⟩, -⟩ := hc
  exact List.inj_on_of_nodup_map (nodup_blockIds hids) ht hu h

/-- Without such a table the lookup fails (43_entry_codec R191). -/
theorem lookup_of_no_table {c : Config} {bid : Nat} {v : Variant} (h : ¬ ∃ f, HasTable c bid v f) :
    lookup c bid v = .error .unknownBlockId := by
  cases hl : lookupFrom bid v c.catalog 0 with
  | none => rw [lookup, hl]
  | some t =>
    obtain ⟨hmem, hid, hform⟩ := lookupFrom_eq_some hl
    exact absurd ⟨t.form, t.table, hmem, hid, hform⟩ h

/-- With such a table the lookup finds its form: block ids are distinct (43_entry_codec R191). -/
theorem lookup_of_hasTable {c : Config} {bid : Nat} {v : Variant} {f : TableForm} (hc : wfConfig c = true)
    (h : HasTable c bid v f) : ∃ t, lookup c bid v = .ok t ∧ t.form = f := by
  obtain ⟨u, hu, huid, huform⟩ := h
  cases hl : lookupFrom bid v c.catalog 0 with
  | none => exact nomatch huform.symm.trans (lookupFrom_eq_none hl u hu huid)
  | some t =>
    obtain ⟨hmem, hid, hform⟩ := lookupFrom_eq_some hl
    have htu : t.table = u := table_eq_of_blockId_eq hc hmem hu (hid.trans huid.symm)
    exact ⟨t, by rw [lookup, hl], Option.some.inj (hform.symm.trans (htu ▸ huform))⟩

/-- The form of a table of a well-formed configuration is well formed (00_scope R12 items 2 to 4). -/
theorem wellFormed_of_hasTable {c : Config} {bid : Nat} {v : Variant} {f : TableForm} (hc : wfConfig c = true)
    (h : HasTable c bid v f) : f.wellFormed = true := by
  obtain ⟨t, ht, -, hform⟩ := h
  exact form_wellFormed c hc t ht v f hform

/-! ### Reading the fields of an entry -/

/-- The slot that a field of an entry is read into (43_entry_codec R192). -/
def fieldValue (E : Buffer) (m : LayoutMode) (d : FieldDesc) : U64 := BitVec.ofNat 64 (readBits E d.lsb m d.width)

/-- Reading legal fields gives each field's value, in schema order (43_entry_codec R192). -/
theorem decodeFields_eq {E : Buffer} {m : LayoutMode} {fs : List FieldDesc}
    (h : ∀ d ∈ fs, FieldLegal E.length d.msb d.lsb m) : decodeFields E m fs = .ok (fs.map (fieldValue E m)) := by
  induction fs with
  | nil => rfl
  | cons d fs ih =>
    obtain ⟨hd, hfs⟩ := List.forall_mem_cons.mp h
    rw [decodeFields, fieldGetF_legal E d.msb d.lsb m hd, ih hfs]
    rfl

/-- ENTRY_DECODE_f of an entry of the right length (43_entry_codec R192). -/
theorem entryDecodeF_eq {f : TableForm} {E : Buffer} (m : LayoutMode) (hf : f.wellFormed = true)
    (hE : E.length = f.size) : entryDecodeF f E m = .ok (f.schema.map (fieldValue E m)) := by
  obtain ⟨-, -, hlegal⟩ := wellFormed_fields f hf m
  rw [entryDecodeF, if_neg (not_not_intro hE), decodeFields_eq (hE ▸ hlegal)]

/-- ENTRY_DECODE_f of anything else fails (43_entry_codec R192). -/
theorem entryDecodeF_of_length_ne {f : TableForm} {E : Buffer} (m : LayoutMode) (hE : E.length ≠ f.size) :
    entryDecodeF f E m = .error .invalidLength := by
  rw [entryDecodeF, if_pos hE]

/-- The bits of a slot: the field's logical bits, zero-extended (41_field_accessor R146). -/
theorem getLsbD_fieldValue {E : Buffer} {m : LayoutMode} {d : FieldDesc} (h : FieldLegal E.length d.msb d.lsb m)
    (j : Nat) : (fieldValue E m d).getLsbD j = (decide (j ≤ d.msb - d.lsb) && logicalBit E m (d.lsb + j)) := by
  obtain ⟨-, hw, -⟩ := h
  rw [fieldValue, getLsbD_ofNat_readBits E d.lsb m (w := d.width) hw]
  simp only [FieldDesc.width, BitRange.width, FieldDesc.range, Nat.lt_succ_iff]

/-! ### Writing the fields of an entry -/

/-- A buffer after each field of a list took the low bits of the value beside it (43_entry_codec R193). -/
def writeFields (m : LayoutMode) (ps : List (FieldDesc × U64)) (E : Buffer) : Buffer :=
  ps.foldl (fun B p => writeBits B p.1.lsb p.2 m p.1.width) E

theorem writeFields_cons (m : LayoutMode) (d : FieldDesc) (x : U64) (ps : List (FieldDesc × U64)) (E : Buffer) :
    writeFields m ((d, x) :: ps) E = writeFields m ps (writeBits E d.lsb x m d.width) := rfl

@[simp] theorem writeFields_length (m : LayoutMode) (ps : List (FieldDesc × U64)) (E : Buffer) :
    (writeFields m ps E).length = E.length := by
  induction ps generalizing E with
  | nil => rfl
  | cons p ps ih => rw [writeFields_cons, ih, writeBits_length]

/-- A field of at most 64 bits truncates a value exactly when its slot exceeds the field: no slot exceeds 64 bits
(41_field_accessor R148, 43_entry_codec R196). -/
theorem truncates_width {d : FieldDesc} (hw : d.width ≤ 64) (x : U64) : truncates d.width x = slotExceeds d x := by
  rw [truncates, slotExceeds]
  by_cases h : d.width < 64
  · rw [decide_eq_true h, Bool.true_and]
  · have h64 : d.width = 64 := by omega
    have hx : ¬ 2 ^ 64 ≤ x.toNat := Nat.not_le.mpr x.isLt
    rw [decide_eq_false h, Bool.false_and, h64, decide_eq_false hx]

/-- Writing legal fields writes each from its slot and ORs the truncation flags (43_entry_codec R193). -/
theorem encodeFields_eq {m : LayoutMode} {fs : List FieldDesc} {r : Record} {E : Buffer} {tr : Bool}
    (h : ∀ d ∈ fs, FieldLegal E.length d.msb d.lsb m) :
    encodeFields m fs r E tr =
      .ok (writeFields m (fs.zip r) E, tr || (fs.zip r).any fun p => slotExceeds p.1 p.2) := by
  induction fs generalizing r E tr with
  | nil => simp [encodeFields, writeFields]
  | cons d fs ih =>
    cases r with
    | nil => simp [encodeFields, writeFields]
    | cons x r =>
      obtain ⟨hd, hfs⟩ := List.forall_mem_cons.mp h
      have hw : d.width ≤ 64 := hd.2.1
      have hset : fieldSetF E d.msb d.lsb x m = .ok (writeBits E d.lsb x m d.width, truncates d.width x) :=
        fieldSetF_legal E d.msb d.lsb x m hd
      rw [encodeFields, hset]
      simp only
      rw [ih (by rwa [writeBits_length]), truncates_width hw, List.zip_cons_cons, writeFields_cons, List.any_cons,
        Bool.or_assoc]

/-- ENTRY_ENCODE_f of a record with one slot per field (43_entry_codec R193). -/
theorem entryEncodeF_eq {f : TableForm} {r : Record} (m : LayoutMode) (hf : f.wellFormed = true)
    (hr : r.length = f.schema.length) :
    entryEncodeF f r m = .ok (writeFields m (f.schema.zip r) (zeros f.size), recordExceeds f r) := by
  obtain ⟨-, -, hlegal⟩ := wellFormed_fields f hf m
  rw [entryEncodeF, if_neg (not_not_intro hr), encodeFields_eq (by rwa [List.length_replicate]), Bool.false_or,
    recordExceeds]

/-- ENTRY_ENCODE_f of any other record fails (43_entry_codec R193). -/
theorem entryEncodeF_of_length_ne {f : TableForm} {r : Record} (m : LayoutMode) (hr : r.length ≠ f.schema.length) :
    entryEncodeF f r m = .error .invalidLength := by
  rw [entryEncodeF, if_pos hr]

/-- A logical bit after one legal field was written (41_field_accessor R148). -/
theorem logicalBit_writeField {E : Buffer} {m : LayoutMode} {d : FieldDesc} (x : U64) {p : Nat}
    (hd : FieldLegal E.length d.msb d.lsb m) (hp : p < 8 * E.length) :
    logicalBit (writeBits E d.lsb x m d.width) m p =
      if d.lsb ≤ p ∧ p ≤ d.msb then x.getLsbD (p - d.lsb) else logicalBit E m p := by
  obtain ⟨hle, -, hlt, hL⟩ := hd
  have hw : d.lsb + d.width = d.msb + 1 := by
    simp only [FieldDesc.width, BitRange.width, FieldDesc.range]
    omega
  rw [logicalBit_writeBits x hL (by omega) hp, hw]
  simp only [Nat.lt_succ_iff]

/-- A bit in none of the fields written stays as it was (43_entry_codec R193). -/
theorem logicalBit_writeFields_outside {m : LayoutMode} {ps : List (FieldDesc × U64)} {E : Buffer} {p : Nat}
    (hlegal : ∀ q ∈ ps, FieldLegal E.length q.1.msb q.1.lsb m) (hp : p < 8 * E.length)
    (hout : ∀ q ∈ ps, p < q.1.lsb ∨ q.1.msb < p) : logicalBit (writeFields m ps E) m p = logicalBit E m p := by
  induction ps generalizing E with
  | nil => rfl
  | cons q ps ih =>
    obtain ⟨hq, hps⟩ := List.forall_mem_cons.mp hlegal
    obtain ⟨hoq, hops⟩ := List.forall_mem_cons.mp hout
    have hrest := ih (E := writeBits E q.1.lsb q.2 m q.1.width) (by rwa [writeBits_length]) (by rwa [writeBits_length])
      hops
    rw [writeFields_cons, hrest, logicalBit_writeField q.2 hq hp, if_neg (by omega)]

/-- Fields that share no bit, as a pairwise relation (00_scope R12 item 4). -/
theorem pairwise_of_fieldsDisjoint {fs : List FieldDesc} (h : fieldsDisjoint fs = true) :
    fs.Pairwise fun d e => d.msb < e.lsb ∨ e.msb < d.lsb := by
  induction fs with
  | nil => exact List.Pairwise.nil
  | cons d fs ih =>
    obtain ⟨hd, hfs⟩ := (Bool.and_eq_true _ _).mp h
    refine List.pairwise_cons.mpr ⟨fun e he => ?_, ih hfs⟩
    have hde := (Bool.or_eq_true _ _).mp (List.all_eq_true.mp hd e he)
    exact hde.imp of_decide_eq_true of_decide_eq_true

/-- A bit of one of several disjoint fields is its value's bit: the fields written later do not touch it
(43_entry_codec R193). -/
theorem logicalBit_writeFields_inside {m : LayoutMode} {ps : List (FieldDesc × U64)} {E : Buffer} {d : FieldDesc}
    {x : U64} {j : Nat} (hlegal : ∀ q ∈ ps, FieldLegal E.length q.1.msb q.1.lsb m)
    (hdis : ps.Pairwise fun q q' => q.1.msb < q'.1.lsb ∨ q'.1.msb < q.1.lsb) (hmem : (d, x) ∈ ps)
    (hj : j ≤ d.msb - d.lsb) : logicalBit (writeFields m ps E) m (d.lsb + j) = x.getLsbD j := by
  induction ps generalizing E with
  | nil => cases hmem
  | cons q ps ih =>
    have hd : FieldLegal E.length d.msb d.lsb m := hlegal _ hmem
    obtain ⟨hq, hps⟩ := List.forall_mem_cons.mp hlegal
    obtain ⟨hdq, hdps⟩ := List.pairwise_cons.mp hdis
    have hps' : ∀ q' ∈ ps, FieldLegal (writeBits E q.1.lsb q.2 m q.1.width).length q'.1.msb q'.1.lsb m := by
      rwa [writeBits_length]
    rw [writeFields_cons]
    rcases List.mem_cons.mp hmem with rfl | hin
    · have hp : d.lsb + j < 8 * E.length := by omega
      have hout : ∀ q' ∈ ps, d.lsb + j < q'.1.lsb ∨ q'.1.msb < d.lsb + j := fun q' hq' => by
        have : d.msb < q'.1.lsb ∨ q'.1.msb < d.lsb := hdq q' hq'
        omega
      rw [logicalBit_writeFields_outside hps' (by rwa [writeBits_length]) hout, logicalBit_writeField (d := d) x hd hp,
        if_pos (by omega), Nat.add_sub_cancel_left]
    · exact ih hps' hdps hin

/-- Every logical bit of a zero buffer is 0. -/
theorem logicalBit_zeros (n : Nat) (m : LayoutMode) (p : Nat) : logicalBit (zeros n) m p = false := by
  rw [logicalBit, bufBit, List.getD_eq_getElem?_getD, List.getElem?_getD_replicate_default_eq]
  exact BitVec.getLsbD_zero

section
variable {f : TableForm} (hf : f.wellFormed = true) {r : Record} (m : LayoutMode)
include hf

/-- The fields that an encoded entry writes are legal in it (00_scope R12 item 3). -/
theorem entry_fields_legal : ∀ q ∈ f.schema.zip r, FieldLegal (zeros f.size).length q.1.msb q.1.lsb m := by
  obtain ⟨-, -, hlegal⟩ := wellFormed_fields f hf m
  intro q hq
  rw [List.length_replicate]
  exact hlegal q.1 (List.of_mem_zip hq).1

/-- The fields of an encoded entry hold the low bits of their slots (43_entry_codec R193). -/
theorem logicalBit_entry_field (hr : r.length = f.schema.length) {k : Nat} {d : FieldDesc} {x : U64}
    (hd : f.schema[k]? = some d) (hx : r[k]? = some x) {j : Nat} (hj : j ≤ d.msb - d.lsb) :
    logicalBit (writeFields m (f.schema.zip r) (zeros f.size)) m (d.lsb + j) = x.getLsbD j := by
  have hmem : (d, x) ∈ f.schema.zip r := List.mem_of_getElem? (List.getElem?_zip_eq_some.mpr ⟨hd, hx⟩)
  have hdis : fieldsDisjoint f.schema = true := ((Bool.and_eq_true _ _).mp hf).2
  have hpair := pairwise_of_fieldsDisjoint hdis
  rw [← List.map_fst_zip hr.ge, List.pairwise_map] at hpair
  exact logicalBit_writeFields_inside (entry_fields_legal hf m) hpair hmem hj

/-- The undeclared bits of an encoded entry are 0 (43_entry_codec R193). -/
theorem logicalBit_entry_undeclared {p : Nat} (hp : p < 8 * f.size)
    (hout : ∀ d ∈ f.schema, p < d.lsb ∨ d.msb < p) :
    logicalBit (writeFields m (f.schema.zip r) (zeros f.size)) m p = false := by
  rw [logicalBit_writeFields_outside (entry_fields_legal hf m) (by rwa [List.length_replicate])
    fun q hq => hout q.1 (List.of_mem_zip hq).1, logicalBit_zeros]

end

/-! ### ENTRY_DECODE -/

/-- ENTRY_DECODE raises InvalidLength for an `IN` longer than `MAX_BUF_BYTES` (20_memory R62). -/
theorem exec_entryDecode_of_not_inputFits {v : Variant} {s : State} (hc : ConfigOk s) (hmode : ModeSet s)
    (hfits : ¬ InputFits s) : exec (.entryDecode v) s = endsError s 10 0 0 := by
  rw [exec_eq_answer (.entryDecode v) s nofun, replyFor, entryDecodeReply, withMode_set s _ hmode,
    withInput_tooLong s _ hfits]
  exact answer_raising hc (by decide)

/-- ENTRY_DECODE past the mode and the input checks (43_entry_codec R195). -/
theorem exec_entryDecode_ready {v : Variant} {s : State} (h : ReadyToRead s) :
    exec (.entryDecode v) s =
      answer s (replyOf (lookup s.cfg s.slots.a0.toNat v) fun t =>
        replyOf (entryDecodeF t.form s.slots.inBuf s.layout) doneRecord) := by
  obtain ⟨-, hmode, hfits⟩ := h
  rw [exec_eq_answer (.entryDecode v) s nofun, replyFor, entryDecodeReply, withMode_set s _ hmode,
    withInput_fits s _ hfits]
  rfl

/-- ENTRY_DECODE without a table of its block id (43_entry_codec R191). -/
theorem exec_entryDecode_of_no_table {v : Variant} {s : State} (h : ReadyToRead s)
    (hno : ¬ ∃ f, HasTable s.cfg s.slots.a0.toNat v f) : exec (.entryDecode v) s = endsError s 2 0 0 := by
  rw [exec_entryDecode_ready h, lookup_of_no_table hno, replyOf_error]
  exact answer_raising h.1 (by decide)

/-- ENTRY_DECODE past the lookup answers `ENTRY_DECODE_f` of the table's form (43_entry_codec R195). -/
theorem exec_entryDecode_of_hasTable {v : Variant} {s : State} {f : TableForm} (h : ReadyToRead s)
    (ht : HasTable s.cfg s.slots.a0.toNat v f) :
    exec (.entryDecode v) s = answer s (replyOf (entryDecodeF f s.slots.inBuf s.layout) doneRecord) := by
  obtain ⟨t, hl, rfl⟩ := lookup_of_hasTable h.1 ht
  rw [exec_entryDecode_ready h, hl, replyOf_ok]

/-- ENTRY_DECODE of an entry of its table returns every field's value (43_entry_codec R192). -/
theorem exec_entryDecode_of_length_eq {v : Variant} {s : State} {f : TableForm} (h : ReadyToRead s)
    (ht : HasTable s.cfg s.slots.a0.toNat v f) (hlen : s.slots.inBuf.length = f.size) :
    exec (.entryDecode v) s =
      endsOk s 0 { Results.empty with recOut := f.schema.map (fieldValue s.slots.inBuf s.layout) } := by
  rw [exec_entryDecode_of_hasTable h ht, entryDecodeF_eq _ (wellFormed_of_hasTable h.1 ht) hlen, replyOf_ok]
  exact answer_done h.1 Warn.none _

/-- Settles O39: the input check, the lookup and the length check gate the command in turn; past them slot `k` is the
value of field `k`, whose bits are the field's logical bits. -/
theorem entryDecodeReadsEveryField : Obligations.EntryDecodeReadsEveryField := by
  intro v s hc hmode
  refine ⟨fun hfits => exec_entryDecode_of_not_inputFits hc hmode hfits,
    fun hfits hno => exec_entryDecode_of_no_table ⟨hc, hmode, hfits⟩ hno,
    fun f hfits ht hlen => ?_,
    fun f hfits ht hlen => ⟨_, exec_entryDecode_of_length_eq ⟨hc, hmode, hfits⟩ ht hlen, List.length_map _,
      fun k d x hd hx j => ?_⟩⟩
  · rw [exec_entryDecode_of_hasTable ⟨hc, hmode, hfits⟩ ht, entryDecodeF_of_length_ne _ hlen, replyOf_error]
    exact answer_raising hc (by decide)
  · rw [List.getElem?_map, hd] at hx
    obtain rfl : fieldValue s.slots.inBuf s.layout d = x := Option.some.inj hx
    obtain ⟨-, -, hlegal⟩ := wellFormed_fields f (wellFormed_of_hasTable hc ht) s.layout
    exact getLsbD_fieldValue (hlen ▸ hlegal d (List.mem_of_getElem? hd)) j

/-! ### ENTRY_ENCODE -/

/-- ENTRY_ENCODE past the mode check (43_entry_codec R196). -/
theorem exec_entryEncode_of_modeSet {v : Variant} {s : State} (hmode : ModeSet s) :
    exec (.entryEncode v) s =
      answer s (replyOf (lookup s.cfg s.slots.a0.toNat v) fun t =>
        replyOf (entryEncodeF t.form s.slots.record s.layout) fun q => doneOut q.2 q.1) := by
  rw [exec_eq_answer (.entryEncode v) s nofun, replyFor, entryEncodeReply, withMode_set s _ hmode]
  rfl

/-- ENTRY_ENCODE without a table of its block id (43_entry_codec R191). -/
theorem exec_entryEncode_of_no_table {v : Variant} {s : State} (hc : ConfigOk s) (hmode : ModeSet s)
    (hno : ¬ ∃ f, HasTable s.cfg s.slots.a0.toNat v f) : exec (.entryEncode v) s = endsError s 2 0 0 := by
  rw [exec_entryEncode_of_modeSet hmode, lookup_of_no_table hno, replyOf_error]
  exact answer_raising hc (by decide)

/-- ENTRY_ENCODE past the lookup answers `ENTRY_ENCODE_f` of the table's form (43_entry_codec R196). -/
theorem exec_entryEncode_of_hasTable {v : Variant} {s : State} {f : TableForm} (hc : ConfigOk s) (hmode : ModeSet s)
    (ht : HasTable s.cfg s.slots.a0.toNat v f) :
    exec (.entryEncode v) s =
      answer s (replyOf (entryEncodeF f s.slots.record s.layout) fun q => doneOut q.2 q.1) := by
  obtain ⟨t, hl, rfl⟩ := lookup_of_hasTable hc ht
  rw [exec_entryEncode_of_modeSet hmode, hl, replyOf_ok]

/-- ENTRY_ENCODE of a record with one slot per field returns the zero entry with every field written
(43_entry_codec R193, R196). -/
theorem exec_entryEncode_of_length_eq {v : Variant} {s : State} {f : TableForm} (hc : ConfigOk s) (hmode : ModeSet s)
    (ht : HasTable s.cfg s.slots.a0.toNat v f) (hlen : s.slots.record.length = f.schema.length) :
    exec (.entryEncode v) s =
      endsOk s (if recordExceeds f s.slots.record then 1 else 0)
        { Results.empty with out := writeFields s.layout (f.schema.zip s.slots.record) (zeros f.size) } := by
  rw [exec_entryEncode_of_hasTable hc hmode ht, entryEncodeF_eq _ (wellFormed_of_hasTable hc ht) hlen, replyOf_ok,
    doneOut, answer_done hc]
  cases recordExceeds f s.slots.record <;> rfl

/-- Settles O40: the lookup and the length check gate the command in turn; past them each field of the zero entry is
written, and disjoint fields do not touch each other's bits. -/
theorem entryEncodeWritesEveryField : Obligations.EntryEncodeWritesEveryField := by
  intro v s hc hmode
  refine ⟨fun hno => exec_entryEncode_of_no_table hc hmode hno, fun f ht hlen => ?_, fun f ht hlen => ?_⟩
  · rw [exec_entryEncode_of_hasTable hc hmode ht, entryEncodeF_of_length_ne _ hlen, replyOf_error]
    exact answer_raising hc (by decide)
  · have hf := wellFormed_of_hasTable hc ht
    refine ⟨_, exec_entryEncode_of_length_eq hc hmode ht hlen, ?_,
      fun k d x hd hx j hj => logicalBit_entry_field hf s.layout hlen hd hx hj,
      fun p hp hout => logicalBit_entry_undeclared hf s.layout hp hout⟩
    rw [writeFields_length, List.length_replicate]

end Sys2Proof.Machine

/-! SUPPORT. Proofs about the preflight of PACK and CHECK_VALID (44_container_framer R211, R216): which variant a device
identifier selects, when one table and a list of tables pass, and what PACK does with a table set that passes. -/

namespace Sys2Proof.Machine

/-! ### The variant of a device identifier -/

/-- Distinct identifiers as a list without repetitions (00_scope R8 P9). -/
theorem nodup_idents {ds : List DeviceId} (h : deviceIdsDistinct ds = true) : (ds.map DeviceId.ident).Nodup := by
  induction ds with
  | nil => exact List.nodup_nil
  | cons d ds ih =>
    simp only [deviceIdsDistinct, Bool.and_eq_true, List.all_eq_true, decide_eq_true_eq] at h
    obtain ⟨hne, hds⟩ := h
    rw [List.map_cons, List.nodup_cons]
    refine ⟨fun hmem => ?_, ih hds⟩
    obtain ⟨e, he, heq⟩ := List.mem_map.mp hmem
    exact hne e he heq.symm

/-- An identifier names at most one device of a well-formed configuration (00_scope R8 P9). -/
theorem device_eq_of_ident_eq {c : Config} (hc : wfConfig c = true) {d e : DeviceId} (hd : d ∈ deviceList c.deviceIds)
    (he : e ∈ deviceList c.deviceIds) (h : d.ident = e.ident) : d = e := by
  simp only [wfConfig, wfParams, Bool.and_eq_true] at hc
  obtain ⟨-, ⟨⟨⟨⟨hids, -⟩, -⟩, -⟩, -⟩, -⟩ := hc
  exact List.inj_on_of_nodup_map (nodup_idents hids) hd he h

/-- A known identifier selects its variant (44_container_framer R211). -/
theorem variantOf_of_deviceMaps {c : Config} {dev : U32} {v : Variant} (hc : wfConfig c = true)
    (h : DeviceMaps c dev v) : variantOf c dev = .ok v := by
  obtain ⟨d, hd, rfl, rfl⟩ := h
  rw [variantOf]
  cases hfind : (deviceList c.deviceIds).find? (fun e => e.ident == d.ident) with
  | none => simpa using List.find?_eq_none.mp hfind d hd
  | some e =>
    have hident : e.ident = d.ident := by simpa using List.find?_some hfind
    rw [device_eq_of_ident_eq hc (List.mem_of_find?_eq_some hfind) hd hident]

/-- An unknown identifier selects none (44_container_framer R211). -/
theorem variantOf_of_unknown {c : Config} {dev : U32} (h : ¬ ∃ v, DeviceMaps c dev v) :
    variantOf c dev = .error .invalidDeviceId := by
  rw [variantOf]
  cases hfind : (deviceList c.deviceIds).find? (fun e => e.ident == dev) with
  | none => rfl
  | some e =>
    have hident : e.ident = dev := by simpa using List.find?_some hfind
    exact absurd ⟨e.variant, e, List.mem_of_find?_eq_some hfind, hident, rfl⟩ h

/-! ### The checks of the tables -/

/-- Every record fits the schema, as a Bool and as a proposition (44_container_framer R216). -/
theorem recordsFit_iff {f : TableForm} {recs : List Record} :
    recordsFit f recs = true ↔ ∀ r ∈ recs, r.length = f.schema.length := by
  simp [recordsFit]

/-- A table passes its checks exactly when the statements call it fine (44_container_framer R216). -/
theorem preflightTable_eq_none {v : Variant} {t : TableDesc} {recs : List Record} :
    preflightTable v t recs = none ↔ tableFine v t recs := by
  rw [preflightTable, tableFine]
  cases hform : formOf t v with
  | none => cases recs <;> simp
  | some f =>
    have hrecords : (recs.length = 0 ∨ ∃ g, some f = some g ∧ ∀ r ∈ recs, r.length = g.schema.length) ↔
        recordsFit f recs = true := by
      rw [recordsFit_iff]
      cases recs <;> simp
    rw [hrecords]
    dsimp only
    cases recordsFit f recs with
    | false => split <;> simp
    | true => simp

/-- Records for an absent table (44_container_framer R216). -/
theorem preflightTable_of_absent {v : Variant} {t : TableDesc} {recs : List Record} (hform : formOf t v = none)
    (h : 0 < recs.length) : preflightTable v t recs = some .unknownBlockId := by
  simp only [preflightTable, hform, if_pos h]

section
variable {v : Variant} {t : TableDesc} {f : TableForm} {recs : List Record} (hform : formOf t v = some f)
include hform

/-- More records than `max_count` (44_container_framer R216). -/
theorem preflightTable_of_too_many (h : t.maxCount < recs.length) :
    preflightTable v t recs = some .entryCountExceeded := by
  simp only [preflightTable, hform, if_pos h]

/-- A record of the wrong slot count (44_container_framer R216). -/
theorem preflightTable_of_bad_record (hcount : recs.length ≤ t.maxCount)
    (h : ∃ r ∈ recs, r.length ≠ f.schema.length) : preflightTable v t recs = some .invalidLength := by
  obtain ⟨r, hr, hlen⟩ := h
  have hfit : recordsFit f recs = false := Bool.eq_false_iff.mpr fun hfit => hlen (recordsFit_iff.mp hfit r hr)
  simp only [preflightTable, hform, if_neg (Nat.not_lt.mpr hcount), if_pos hfit]

end

/-- Tables that are all fine pass (44_container_framer R216). -/
theorem preflightTables_of_fine {v : Variant} {ts : List TableDesc} {tbl : List (List Record)}
    (h : ∀ p ∈ ts.zip tbl, tableFine v p.1 p.2) : preflightTables v ts tbl = none := by
  induction ts, tbl using preflightTables.induct v with
  | case1 t ts recs rest e he =>
    have hfine := preflightTable_eq_none.mpr (h (t, recs) List.mem_cons_self)
    exact nomatch he.symm.trans hfine
  | case2 t ts recs rest he ih =>
    rw [preflightTables, he]
    exact ih fun p hp => h p (List.mem_cons_of_mem _ hp)
  | case3 ts tbl hno => rw [preflightTables]; exact hno

/-- The first table that fails, after tables that are fine, gives the error (44_container_framer R216). -/
theorem preflightTables_of_first_error {v : Variant} {ts : List TableDesc} {tbl : List (List Record)} {k : Nat}
    {t : TableDesc} {recs : List Record} {e : Err} (ht : ts[k]? = some t) (hrecs : tbl[k]? = some recs)
    (hfine : ∀ p ∈ (ts.zip tbl).take k, tableFine v p.1 p.2) (he : preflightTable v t recs = some e) :
    preflightTables v ts tbl = some e := by
  induction ts, tbl using preflightTables.induct v generalizing k with
  | case1 u ts us rest e' he' =>
    rw [preflightTables, he']
    cases k with
    | zero =>
      cases ht
      cases hrecs
      exact he'.symm.trans he
    | succ k => exact nomatch he'.symm.trans (preflightTable_eq_none.mpr (hfine (u, us) List.mem_cons_self))
  | case2 u ts us rest hnone ih =>
    rw [preflightTables, hnone]
    cases k with
    | zero =>
      cases ht
      cases hrecs
      exact nomatch hnone.symm.trans he
    | succ k => exact ih ht hrecs fun p hp => hfine p (List.mem_cons_of_mem _ hp)
  | case3 ts tbl hno =>
    cases ts with
    | nil => cases ht
    | cons u ts =>
      cases tbl with
      | nil => cases hrecs
      | cons us rest => exact (hno u ts us rest rfl rfl).elim

/-! ### The preflight of a table set -/

section
variable {c : Config} (hc : wfConfig c = true) {ts : TableSet} {v : Variant} (hdev : DeviceMaps c ts.dev v)
include hc hdev

/-- A list count other than the catalog's (44_container_framer R216). -/
theorem preflightF_of_length_ne (hlen : ts.tbl.length ≠ c.catalog.length) :
    preflightF c ts = .error .invalidLength := by
  rw [preflightF, variantOf_of_deviceMaps hc hdev]
  exact if_pos hlen

/-- The preflight past its first two checks (44_container_framer R216). -/
theorem preflightF_of_tables_error (hlen : ts.tbl.length = c.catalog.length) {e : Err}
    (he : preflightTables v c.catalog ts.tbl = some e) : preflightF c ts = .error e := by
  rw [preflightF, variantOf_of_deviceMaps hc hdev]
  simp only [if_neg (not_not_intro hlen), he]

end

/-- An unknown device identifier (44_container_framer R216). -/
theorem preflightF_of_unknown {c : Config} {ts : TableSet} (h : ¬ ∃ v, DeviceMaps c ts.dev v) :
    preflightF c ts = .error .invalidDeviceId := by
  rw [preflightF, variantOf_of_unknown h]

/-- A legal table set passes (44_container_framer R216). -/
theorem preflightF_of_legal {c : Config} (hc : wfConfig c = true) {ts : TableSet} {v : Variant}
    (h : TableSetLegal c v ts) : preflightF c ts = .ok v := by
  obtain ⟨hdev, hlen, hfine⟩ := h
  rw [preflightF, variantOf_of_deviceMaps hc hdev]
  simp only [if_neg (not_not_intro hlen), preflightTables_of_fine hfine]

/-! ### The image of a table set that passes -/

/-- The entries of a table are encoded to a whole number of words (44_container_framer R214, R215). -/
theorem packBody_ok {f : TableForm} (m : LayoutMode) (hf : f.wellFormed = true) {recs : List Record}
    (h : ∀ r ∈ recs, r.length = f.schema.length) : ∃ q, packBody f m recs = .ok q ∧ q.1.length % 4 = 0 := by
  induction recs with
  | nil => exact ⟨_, rfl, rfl⟩
  | cons r recs ih =>
    obtain ⟨hr, hrecs⟩ := List.forall_mem_cons.mp h
    obtain ⟨x, hx, hxlen⟩ := entryEncodeF_ok f hf r m hr
    obtain ⟨y, hy, hylen⟩ := ih hrecs
    obtain ⟨-, hsize, -⟩ := wellFormed_fields f hf m
    refine ⟨(x.1 ++ y.1, x.2 || y.2), by rw [packBody, hx, hy], ?_⟩
    rw [List.length_append]
    omega

section
variable {c : Config} (hc : wfConfig c = true) (v : Variant) (m : LayoutMode)
include hc

/-- The block of a table whose records fit is made (44_container_framer R215). -/
theorem packTable_ok (t : TableDesc) {f : TableForm} (hf : f.wellFormed = true) {recs : List Record}
    (h : ∀ r ∈ recs, r.length = f.schema.length) : ∃ q, packTable c t f m recs = .ok q := by
  obtain ⟨h8, hhdr, hlen⟩ := hdrF_ok c hc t.blockId (recs.length * f.size / 4) m
  obtain ⟨hcrc, hhcrc, -⟩ := storedCrc_ok h8 m (by omega)
  obtain ⟨body, hbody, hblen⟩ := packBody_ok m hf h
  obtain ⟨dcrc, hdcrc, -⟩ := storedCrc_ok body.1 m hblen
  exact ⟨_, by simp only [packTable, hhdr, hhcrc, hbody, hdcrc]; rfl⟩

/-- The blocks of tables that are fine are made (44_container_framer R215). -/
theorem packTables_ok {ts : List TableDesc} {tbl : List (List Record)} (hmem : ∀ t ∈ ts, t ∈ c.catalog)
    (h : ∀ p ∈ ts.zip tbl, tableFine v p.1 p.2) : ∃ q, packTables c v m ts tbl = .ok q := by
  induction ts generalizing tbl with
  | nil => exact ⟨_, by simp [packTables]; rfl⟩
  | cons t ts ih =>
    obtain ⟨ht, hts⟩ := List.forall_mem_cons.mp hmem
    cases tbl with
    | nil => exact ⟨_, by simp [packTables]; rfl⟩
    | cons recs rest =>
      obtain ⟨⟨-, hrecs⟩, hrest⟩ := List.forall_mem_cons.mp h
      obtain ⟨y, hy⟩ := ih hts hrest
      cases recs with
      | nil => exact ⟨y, by rw [packTables, hy]⟩
      | cons r recs =>
        obtain ⟨f, hform, hfit⟩ := hrecs.resolve_left nofun
        obtain ⟨x, hx⟩ := packTable_ok hc m t (form_wellFormed c hc t ht v f hform) hfit
        exact ⟨_, by simp only [packTables, hform, hx, hy]; rfl⟩

/-- The image of a legal table set is made (44_container_framer R215). -/
theorem packImage_ok {ts : TableSet} (h : TableSetLegal c v ts) (ph : U32) :
    ∃ q, packImage c v ts ph m = .ok q := by
  obtain ⟨-, -, hfine⟩ := h
  obtain ⟨d, hd, -⟩ := u32F_ok ts.dev m
  obtain ⟨body, hbody⟩ := packTables_ok hc v m (fun _ ht => ht) hfine
  obtain ⟨h8, hhdr, -⟩ := hdrF_ok c hc Config.terminalBlkId 0 m
  obtain ⟨p, hp, -⟩ := u32F_ok ph m
  exact ⟨_, by simp only [packImage, terminalF, hd, hbody, hhdr, hp]; rfl⟩

end

/-! ### PACK and CHECK_VALID -/

/-- A command of which the preflight is the first check that can fail: CHECK_VALID, or PACK past the checks of its
operand and of the mode (44_container_framer R215, R245). -/
def BeginsWithPreflight (i : Instr) (s : State) : Prop :=
  i = .checkValid ∨ (i = .pack ∧ ModeSet s ∧ s.slots.a0.toNat < 2 ^ 32)

/-- PACK past the checks of its operand and of the mode (44_container_framer R215). -/
theorem packReply_ready {s : State} (hmode : ModeSet s) (ha : s.slots.a0.toNat < 2 ^ 32) :
    packReply s = replyOf (preflightF s.cfg s.slots.tables) fun v =>
      replyOf (packImage s.cfg v s.slots.tables (placeholderOperand s) s.layout) (packFinish s.cfg) := by
  have hp : packSlotLegal s = true := decide_eq_true ha
  rw [packReply, if_neg (by simp [hp]), withMode_set s _ hmode]

/-- The two commands end with the error of the preflight (60_exceptions R297). -/
theorem exec_of_preflightF_error {s : State} {i : Instr} {e : Err} (hc : ConfigOk s) (hi : BeginsWithPreflight i s)
    (he : preflightF s.cfg s.slots.tables = .error e) : exec i s = endsError s e.code 0 0 := by
  have hcode : e.code ≠ 7 := by
    have := preflightF_error he
    revert this
    cases e <;> simp [Err.code]
  have hexec : exec i s = answer s (raising e) := by
    rcases hi with rfl | ⟨rfl, hmode, ha⟩
    · rw [exec_eq_answer .checkValid s nofun, replyFor, checkValidReply, he, replyOf_error]
    · rw [exec_eq_answer .pack s nofun, replyFor, packReply_ready hmode ha, he, replyOf_error]
  rw [hexec, answer_raising hc hcode]

/-- PACK ends with OK or, for an image longer than `MAX_BUF_BYTES`, with InvalidLength (44_container_framer R215). -/
theorem status_packFinish (c : Config) (x : Buffer × Bool) :
    (packFinish c x).response.status = 0 ∨ (packFinish c x).response.status = 10 := by
  unfold packFinish
  split
  · exact .inr (status_raise _ _)
  · exact .inl (status_done _ _)

/-- CHECK_VALID past the preflight ends with OK or with ConfigValidationFailure (44_container_framer R245). -/
theorem status_checkValidReply_of_legal {s : State} {v : Variant}
    (h : preflightF s.cfg s.slots.tables = .ok v) :
    (checkValidReply s).response.status = 0 ∨ (checkValidReply s).response.status = 7 := by
  rw [checkValidReply, h, replyOf_ok]
  split
  · exact .inr (status_raising _)
  · exact .inl (status_done _ _)

/-- Settles O44: each clause picks the first check of the preflight that fails, both commands end with the error it
names, and a table set that passes leaves only the errors that come after the preflight. -/
theorem preflightReportsTheFirstError : Obligations.PreflightReportsTheFirstError := by
  intro s i hc hi
  refine ⟨fun hno => exec_of_preflightF_error hc hi (preflightF_of_unknown hno),
    fun v hdev hlen => exec_of_preflightF_error hc hi (preflightF_of_length_ne hc hdev hlen),
    fun v k t recs hdev hlen ht hrecs hfine => ?_, fun v hlegal => ?_⟩
  · have hfirst {e : Err} (he : preflightTable v t recs = some e) : exec i s = endsError s e.code 0 0 :=
      exec_of_preflightF_error hc hi
        (preflightF_of_tables_error hc hdev hlen (preflightTables_of_first_error ht hrecs hfine he))
    exact ⟨fun hpos hform => hfirst (preflightTable_of_absent hform hpos),
      fun f hform hcount => hfirst (preflightTable_of_too_many hform hcount),
      fun f hform hcount hbad => hfirst (preflightTable_of_bad_record hform hcount hbad)⟩
  · have hok := preflightF_of_legal hc hlegal
    rcases hi with rfl | ⟨rfl, hmode, ha⟩
    · have hstatus := status_checkValidReply_of_legal hok
      exact ⟨_, _, answer_of_configOk s (checkValidReply s) hc, rfl, hstatus.imp_right fun h => .inl ⟨rfl, h⟩⟩
    · obtain ⟨x, hx⟩ := packImage_ok hc v s.layout hlegal (placeholderOperand s)
      have hreply : packReply s = packFinish s.cfg x := by
        rw [packReply_ready hmode ha, hok, replyOf_ok, hx, replyOf_ok]
      have hstatus := status_packFinish s.cfg x
      rw [← hreply] at hstatus
      exact ⟨_, _, answer_of_configOk s (packReply s) hc, rfl, hstatus.imp_right fun h => .inr ⟨rfl, h⟩⟩

end Sys2Proof.Machine

/-! SUPPORT. Proofs about UNPACK (44_container_framer R225 to R232): reading at an offset of an image, one header, one
table's entries and its data CRC, one block, and a list of blocks up to the first header whose length field is 0. -/

namespace Sys2Proof.Machine

/-! ### Bytes at an offset of an image -/

/-- The bytes that begin at an offset are read from there (00_scope R15). -/
theorem slice_of_prefix {B X : Buffer} {p n : Nat} (h : X <+: B.drop p) (hn : n ≤ X.length) :
    slice B p n = X.take n := by
  obtain ⟨tail, htail⟩ := h
  rw [slice, ← htail, List.take_append_of_le_length hn]

/-- The same for all of those bytes. -/
theorem slice_of_prefix_length {B X : Buffer} {p n : Nat} (h : X <+: B.drop p) (hn : X.length = n) :
    slice B p n = X := by
  rw [slice_of_prefix h hn.ge, ← hn, List.take_length]

/-- What follows the bytes that begin at an offset. -/
theorem prefix_drop_of_append {B X Y : Buffer} {p q : Nat} (h : X ++ Y <+: B.drop p) (hq : q = p + X.length) :
    Y <+: B.drop q := by
  obtain ⟨tail, htail⟩ := h
  refine ⟨tail, ?_⟩
  rw [hq, ← List.drop_drop, ← htail, List.append_assoc, List.drop_left]

/-- Bytes at an offset end inside the image. -/
theorem length_le_of_prefix {B X : Buffer} {p : Nat} (h : X <+: B.drop p) : X.length ≤ B.length - p := by
  simpa using h.length_le

/-! ### Stored CRCs -/

/-- Reading the bits that a field write stored gives the low bits of its value (41_field_accessor R149). -/
theorem readBits_writeBits {B : Buffer} {lsb w : Nat} {m : LayoutMode} (x : U64)
    (hL : (m.getLsbD 1 = true ∨ m.getLsbD 2 = true) → B.length % 4 = 0) (hw : lsb + w ≤ 8 * B.length) :
    readBits (writeBits B lsb x m w) lsb m w = x.toNat % 2 ^ w := by
  refine Nat.eq_of_testBit_eq fun j => ?_
  rw [testBit_readBits_eq, Nat.testBit_mod_two_pow, BitVec.testBit_toNat]
  by_cases hj : j < w
  · rw [logicalBit_writeBits x hL hw (by omega), if_pos (by omega), Nat.add_sub_cancel_left]
  · simp [hj]

/-- Reading back a stored 32-bit value (00_scope R17). -/
theorem get32F_of_u32F {x : U32} {m : LayoutMode} {b : Buffer} (h : u32F x m = .ok b) : get32F b m = .ok x := by
  have hlegal : FieldLegal (zeros 4).length 31 0 m := fieldLegal_four 31 0 m (by decide) (by decide)
  have hread := readBits_writeBits (B := zeros 4) (lsb := 0) (w := 32) (m := m) (BitVec.ofNat 64 x.toNat)
    (fun _ => rfl) (Nat.le_refl 32)
  rw [u32F, fieldSetF_legal _ 31 0 _ m hlegal] at h
  obtain rfl := Except.ok.inj h
  rw [get32F, fieldGetF_legal _ 31 0 m (by rwa [writeBits_length]), hread]
  refine congrArg Except.ok (BitVec.eq_of_toNat_eq ?_)
  have := x.isLt
  simp only [BitVec.toNat_ofNat]
  omega

/-- A whole number of words with its stored CRC: the 4 bytes after it read as its CRC (42_crc32 R178). -/
theorem withCrc_eq {B : Buffer} (m : LayoutMode) (h : B.length % 4 = 0) :
    ∃ crc b, crc32F B m = .ok crc ∧ withCrc B m = B ++ b ∧ b.length = 4 ∧ get32F b m = .ok crc := by
  obtain ⟨crc, hcrc⟩ := crc32F_ok B m h
  obtain ⟨b, hb, hlen⟩ := u32F_ok crc m
  refine ⟨crc, b, hcrc, ?_, hlen, get32F_of_u32F hb⟩
  simp only [withCrc, storedCrc, hcrc, hb, bufferOr]

/-- A stored CRC takes 4 bytes (42_crc32 R178). -/
theorem length_withCrc {B : Buffer} (m : LayoutMode) (h : B.length % 4 = 0) :
    (withCrc B m).length = B.length + 4 := by
  obtain ⟨-, b, -, heq, hlen, -⟩ := withCrc_eq m h
  rw [heq, List.length_append, hlen]

/-- The data CRC matches where the declared bytes stand with their stored CRC (44_container_framer R230, R231). -/
theorem checkDataCrc_of_withCrc {B X : Buffer} {m : LayoutMode} {p D : Nat} (h : withCrc X m <+: B.drop p)
    (hD : X.length = D) (hX : D % 4 = 0) : checkDataCrc m B p D = none := by
  subst hD
  obtain ⟨crc, b, hcrc, heq, hlen, hget⟩ := withCrc_eq m hX
  rw [heq] at h
  have hdata := slice_of_prefix_length ((List.prefix_append X b).trans h) rfl
  have hstored := slice_of_prefix_length (prefix_drop_of_append h rfl) hlen
  simp only [checkDataCrc, hdata, hstored, hcrc, hget, if_true]

/-! ### Headers -/

/-- A present table is found at its place in a list of distinct block ids (43_entry_codec R191). -/
theorem lookupFrom_of_getElem? {v : Variant} {ts : List TableDesc} {i k : Nat} {t : TableDesc} {f : TableForm}
    (hids : (ts.map TableDesc.blockId).Nodup) (ht : ts[k]? = some t) (hform : formOf t v = some f) :
    lookupFrom t.blockId v ts i = some ⟨i + k, t, f⟩ := by
  induction ts generalizing i k with
  | nil => cases ht
  | cons u ts ih =>
    rw [List.map_cons, List.nodup_cons] at hids
    obtain ⟨hu, hids⟩ := hids
    cases k with
    | zero =>
      cases ht
      simp only [lookupFrom, hform, if_true]
      rfl
    | succ k =>
      have hmem : t ∈ ts := List.mem_of_getElem? ht
      have hne : u.blockId ≠ t.blockId := fun heq => hu (heq ▸ List.mem_map_of_mem hmem)
      have hrest := ih (i := i + 1) hids ht
      rw [Nat.add_right_comm i 1 k] at hrest
      rw [lookupFrom]
      cases formOf u v with
      | none => exact hrest
      | some g => exact (if_neg hne).trans hrest

/-- A header whose length field is 0 ends the image, whatever else it holds (44_container_framer R226, R232). -/
theorem readHeader_of_hlen_zero {c : Config} (hc : wfConfig c = true) (v : Variant) {m : LayoutMode}
    {B header rest : Buffer} {p : Nat} (h : header ++ rest <+: B.drop p) (hlen : header.length = 8)
    (hrest : 4 ≤ rest.length) (hzero : hlenF c header m = .ok 0) : readHeader c v m B p = .ok .terminal := by
  obtain ⟨hlegal, -, -⟩ := header_legal c hc m
  obtain ⟨crc, hcrc⟩ := crc32F_ok header m (by omega)
  have hbid := fieldGetF_legal header _ _ m (hlen ▸ hlegal)
  have hfits := length_le_of_prefix h
  rw [List.length_append] at hfits
  have hslice := slice_of_prefix_length ((List.prefix_append header rest).trans h) hlen
  have hstored := slice_of_prefix (n := 4) (prefix_drop_of_append h (by rw [hlen])) hrest
  obtain ⟨stored, hget⟩ := get32F_ok (rest.take 4) m (by rw [List.length_take]; omega)
  have hin : ¬ B.length < p + Config.hdrBytes := by
    rw [Config.hdrBytes]
    omega
  simp only [readHeader, if_neg hin, hslice, hstored, hzero, hbidF, hbid, hcrc, hget, if_true]

/-! ### The entries of a table -/

/-- The record of whole entry `n` of a block's declared bytes (44_container_framer R225 step 4). -/
def entryRecord (f : TableForm) (m : LayoutMode) (body : Buffer) (n : Nat) : Record :=
  f.schema.map (fieldValue (slice body (n * f.size) f.size) m)

/-- Entry `n + 1` is entry `n` of the bytes after the first entry. -/
theorem entryRecord_succ (f : TableForm) (m : LayoutMode) (body : Buffer) (n : Nat) :
    entryRecord f m body (n + 1) = entryRecord f m (body.drop f.size) n := by
  rw [entryRecord, entryRecord, slice, slice, List.drop_drop, Nat.succ_mul, Nat.add_comm]

/-- A whole entry lies in the declared bytes. -/
theorem length_entry {f : TableForm} {body : Buffer} {n : Nat} (hn : n < body.length / f.size) :
    (slice body (n * f.size) f.size).length = f.size := by
  have hle : (n + 1) * f.size ≤ body.length :=
    (Nat.mul_le_mul_right _ hn).trans (Nat.div_mul_le_self body.length f.size)
  rw [Nat.succ_mul] at hle
  rw [slice, List.length_take, List.length_drop]
  omega

/-- The loop over the entries of a table's region decodes its whole entries in order (44_container_framer R225
step 4). -/
theorem unpackEntries_eq {B body : Buffer} {f : TableForm} (m : LayoutMode) {p n : Nat} (hf : f.wellFormed = true)
    (h : body <+: B.drop p) (hn : n * f.size ≤ body.length) :
    unpackEntries B f m p n = .ok ((List.range n).map (entryRecord f m body)) := by
  induction n generalizing p body with
  | zero => rfl
  | succ n ih =>
    rw [Nat.succ_mul] at hn
    have hfirst : f.size ≤ body.length := by omega
    have hslice : slice B p f.size = body.take f.size := slice_of_prefix h hfirst
    have hlen : (body.take f.size).length = f.size := List.length_take_of_le hfirst
    have hentry : f.schema.map (fieldValue (body.take f.size) m) = entryRecord f m body 0 := by
      rw [entryRecord, Nat.zero_mul, slice, List.drop_zero]
    have hdrop : body.drop f.size <+: B.drop (p + f.size) :=
      prefix_drop_of_append (X := body.take f.size) (by rwa [List.take_append_drop]) (by rw [hlen])
    have hrest := ih hdrop (by rw [List.length_drop]; omega)
    rw [unpackEntries, hslice, entryDecodeF_eq m hf hlen, hentry, hrest, List.range_succ_eq_map, List.map_cons,
      List.map_map]
    simp only [Function.comp_def, entryRecord_succ]

/-- The records of a block are its whole entries (44_container_framer R229). -/
theorem blockRecords_eq {v : Variant} (m : LayoutMode) {d : ImageBlock} {f : TableForm}
    (hform : formOf d.table v = some f) (hf : f.wellFormed = true) :
    blockRecords v m d = (List.range (d.body.length / f.size)).map (entryRecord f m d.body) := by
  rw [blockRecords, hform]
  refine List.map_congr_left fun n hn => ?_
  have hlen : ((d.body.drop (n * f.size)).take f.size).length = f.size := length_entry (List.mem_range.mp hn)
  rw [entryDecodeF_eq m hf hlen]
  rfl

/-- The data of a table whose declared bytes are in the image (44_container_framer R225 steps 4 and 6). -/
theorem readBody_eq {B body : Buffer} {t : Found} (m : LayoutMode) {p D : Nat} (hf : t.form.wellFormed = true)
    (h : withCrc body m <+: B.drop p) (hD : body.length = D) (hwords : D % 4 = 0)
    (hcount : D / t.form.size ≤ t.table.maxCount) :
    readBody t m B p D = .ok ((List.range (D / t.form.size)).map (entryRecord t.form m body)) := by
  subst hD
  obtain ⟨crc, b, -, heq, hlen, -⟩ := withCrc_eq m hwords
  rw [heq] at h
  have hfits := length_le_of_prefix h
  rw [List.length_append] at hfits
  rw [readBody, if_neg (Nat.not_lt.mpr hcount), if_neg (by omega)]
  exact unpackEntries_eq m hf ((List.prefix_append body b).trans h) (Nat.div_mul_le_self _ _)

/-! ### A block -/

/-- What the header fields of a well-formed configuration hold fits 64 bits (00_scope R12 items 1 and 6). -/
theorem header_values_lt {c : Config} (hc : wfConfig c = true) :
    2 ^ c.hdrLen.width ≤ 2 ^ 64 ∧ ∀ t ∈ c.catalog, t.blockId < 2 ^ 64 := by
  obtain ⟨⟨-, hid, -⟩, ⟨-, hlen, -⟩, -⟩ := header_legal c hc 0
  simp only [wfConfig, wfCat, Bool.and_eq_true, blockIdsFit, List.all_eq_true, decide_eq_true_eq] at hc
  obtain ⟨⟨⟨⟨⟨⟨-, hfit⟩, -⟩, -⟩, -⟩, -⟩, -⟩ := hc
  exact ⟨Nat.pow_le_pow_right (by decide) hlen,
    fun t ht => (hfit t ht).trans_le (Nat.pow_le_pow_right (by decide) hid)⟩

/-- Block ids of a well-formed catalog are distinct (00_scope R12 item 1). -/
theorem catalog_blockIds_nodup {c : Config} (hc : wfConfig c = true) :
    (c.catalog.map TableDesc.blockId).Nodup := by
  simp only [wfConfig, wfCat, Bool.and_eq_true] at hc
  obtain ⟨⟨⟨⟨⟨⟨hids, -⟩, -⟩, -⟩, -⟩, -⟩, -⟩ := hc
  exact nodup_blockIds hids

/-- A table present for the variant is found by its block id, at its place in the catalog (43_entry_codec R191). -/
theorem lookup_of_mem {c : Config} (hc : wfConfig c = true) {v : Variant} {t : TableDesc} {f : TableForm}
    (ht : t ∈ c.catalog) (hform : formOf t v = some f) :
    lookup c t.blockId v = .ok ⟨c.catalog.idxOf t, t, f⟩ := by
  rw [lookup, lookupFrom_of_getElem? (catalog_blockIds_nodup hc) (List.getElem?_idxOf ht) hform, Nat.zero_add]

/-- A header that names a present table and a positive length, with its stored CRC (44_container_framer R225 steps 1
to 3). -/
theorem readHeader_of_table {c : Config} (hc : wfConfig c = true) {v : Variant} {m : LayoutMode} {B header : Buffer}
    {p lenw : Nat} {t : TableDesc} {f : TableForm} (h : withCrc header m <+: B.drop p) (ht : t ∈ c.catalog)
    (hform : formOf t v = some f) (hpos : 0 < lenw) (hlenw : lenw < 2 ^ c.hdrLen.width)
    (hreads : ReadsAsHeader c m header t.blockId lenw) :
    readHeader c v m B p = .ok (.table ⟨c.catalog.idxOf t, t, f⟩ lenw) := by
  obtain ⟨hlen, hbid, hhlen⟩ := hreads
  obtain ⟨hwidth, hids⟩ := header_values_lt hc
  obtain ⟨crc, b, hcrc, heq, hblen, hget⟩ := withCrc_eq m (B := header) (by omega)
  rw [heq] at h
  have hfits := length_le_of_prefix h
  rw [List.length_append] at hfits
  have hslice := slice_of_prefix_length ((List.prefix_append header b).trans h) hlen
  have hstored := slice_of_prefix_length (prefix_drop_of_append h (by rw [hlen])) hblen
  have hin : ¬ B.length < p + Config.hdrBytes := by
    rw [Config.hdrBytes]
    omega
  have hbidNat : (BitVec.ofNat 64 t.blockId).toNat = t.blockId :=
    (BitVec.toNat_ofNat _ _).trans (Nat.mod_eq_of_lt (hids t ht))
  have hlenNat : (BitVec.ofNat 64 lenw).toNat = lenw :=
    (BitVec.toNat_ofNat _ _).trans (Nat.mod_eq_of_lt (hlenw.trans_le hwidth))
  have hne : BitVec.ofNat 64 lenw ≠ 0 := by
    intro hzero
    rw [hzero] at hlenNat
    exact hpos.ne hlenNat
  simp only [readHeader, if_neg hin, hslice, hstored, hhlen, hbid, hcrc, hget, if_neg hne, ne_eq, not_true_eq_false,
    if_false, hbidNat, hlenNat, lookup_of_mem hc ht hform]

/-- The remainder of a block, as the loop of UNPACK finds it (44_container_framer R230). -/
theorem blockRemainder_eq {v : Variant} {d : ImageBlock} {f : TableForm} (hform : formOf d.table v = some f) :
    blockRemainder v d = decide (d.body.length / f.size * f.size ≠ d.body.length) := by
  have hdiv := Nat.div_add_mod' d.body.length f.size
  simp only [blockRemainder, hform]
  exact decide_eq_decide.mpr (by omega)

/-- A block that UNPACK accepts takes its declared bytes and 16 more (44_container_framer R214). -/
theorem length_blockBytes {c : Config} {v : Variant} {m : LayoutMode} {d : ImageBlock} (hd : BlockLegal c v m d) :
    (blockBytes m d).length = d.body.length + 16 := by
  obtain ⟨-, hwords, -, -, ⟨hlen, -, -⟩, -⟩ := hd
  rw [blockBytes, List.length_append, length_withCrc m hwords, length_withCrc m (by omega), hlen]
  omega

/-- The place of a block's table in the catalog. -/
def blockIndex (c : Config) (d : ImageBlock) : Nat := c.catalog.idxOf d.table

/-- One turn of the loop of UNPACK at a block that it accepts, of a table not seen before (44_container_framer R225,
R228 to R230). -/
theorem unpackLoop_of_block {c : Config} (hc : wfConfig c = true) {v : Variant} {m : LayoutMode} {B : Buffer}
    {d : ImageBlock} {fuel p : Nat} {tbl : List (List Record)} {seen : List Nat} {warn : Bool}
    (h : blockBytes m d <+: B.drop p) (hd : BlockLegal c v m d) (hseen : blockIndex c d ∉ seen) :
    unpackLoop c v m B (fuel + 1) p tbl seen warn =
      unpackLoop c v m B fuel (p + (blockBytes m d).length)
        (tbl.set (blockIndex c d) (tbl.getD (blockIndex c d) [] ++ blockRecords v m d)) (blockIndex c d :: seen)
        (warn || blockRemainder v d) := by
  have hlength := length_blockBytes hd
  obtain ⟨ht, hwords, hpos, hlenw, hreads, f, hform, hcount⟩ := hd
  have hf := form_wellFormed c hc d.table ht v f hform
  have hD : 4 * (d.body.length / 4) = d.body.length := by omega
  have hheaderLen : (withCrc d.header m).length = 12 := by
    rw [length_withCrc m (by omega), hreads.1]
  have hheader := readHeader_of_table hc ((List.prefix_append _ _).trans h) ht hform (by omega) hlenw hreads
  have hbody : withCrc d.body m <+: B.drop (p + 12) := prefix_drop_of_append h (by rw [hheaderLen])
  have hrecords := readBody_eq (t := ⟨c.catalog.idxOf d.table, d.table, f⟩) m hf hbody rfl hwords hcount
  have hcrc := checkDataCrc_of_withCrc hbody rfl hwords
  have hend : p + 12 + d.body.length + 4 = p + (blockBytes m d).length := by omega
  rw [unpackLoop, hheader]
  simp only [hD, hrecords, hcrc, hend, ← blockRecords_eq m hform hf, ← blockRemainder_eq hform]
  exact if_neg hseen

/-! ### A list of blocks -/

/-- A list of blocks that UNPACK accepts ends with one it accepts, of a table that none before it names
(44_container_framer R228). -/
theorem blocksLegal_append_singleton {c : Config} {v : Variant} {m : LayoutMode} {ds : List ImageBlock}
    {d : ImageBlock} (h : BlocksLegal c v m (ds ++ [d])) :
    BlocksLegal c v m ds ∧ BlockLegal c v m d ∧ ∀ e ∈ ds, e.table.blockId ≠ d.table.blockId := by
  obtain ⟨hlegal, hids⟩ := h
  rw [List.map_append, List.map_singleton, List.nodup_append] at hids
  obtain ⟨hnodup, -, hne⟩ := hids
  exact ⟨⟨fun e he => hlegal e (List.mem_append_left _ he), hnodup⟩, hlegal d (by simp),
    fun e he => hne _ (List.mem_map_of_mem he) _ List.mem_cons_self⟩

/-- The records that a list of blocks gives a table (44_container_framer R228, R232). -/
def tableRecords (v : Variant) (m : LayoutMode) (ds : List ImageBlock) (t : TableDesc) : List Record :=
  match ds.find? (fun d => d.table.blockId == t.blockId) with
  | none => []
  | some d => blockRecords v m d

theorem gatherBlocks_eq (c : Config) (v : Variant) (m : LayoutMode) (ds : List ImageBlock) :
    gatherBlocks c v m ds = c.catalog.map (tableRecords v m ds) := rfl

/-- With no block every table is empty (44_container_framer R225). -/
theorem gatherBlocks_nil (c : Config) (v : Variant) (m : LayoutMode) : gatherBlocks c v m [] = emptyTables c :=
  List.map_const'

/-- A table that no block names is empty (44_container_framer R232). -/
theorem tableRecords_of_not_named (v : Variant) (m : LayoutMode) {ds : List ImageBlock} {t : TableDesc}
    (h : ∀ e ∈ ds, e.table.blockId ≠ t.blockId) : tableRecords v m ds t = [] := by
  have hfind : ds.find? (fun e => e.table.blockId == t.blockId) = none := by simpa using h
  simp only [tableRecords, hfind]

section
variable (v : Variant) (m : LayoutMode) {ds : List ImageBlock} {d : ImageBlock}

/-- A further block gives its table its records when none before names it. -/
theorem tableRecords_append_singleton_self (h : ∀ e ∈ ds, e.table.blockId ≠ d.table.blockId) :
    tableRecords v m (ds ++ [d]) d.table = blockRecords v m d := by
  have hfind : ds.find? (fun e => e.table.blockId == d.table.blockId) = none := by simpa using h
  simp only [tableRecords, List.find?_append, hfind, Option.none_or, List.find?_singleton, beq_self_eq_true, if_true]

/-- A further block changes no other table. -/
theorem tableRecords_append_singleton_of_ne {t : TableDesc} (h : d.table.blockId ≠ t.blockId) :
    tableRecords v m (ds ++ [d]) t = tableRecords v m ds t := by
  have hbeq : ¬ (d.table.blockId == t.blockId) = true := by simpa using h
  simp only [tableRecords, List.find?_append, List.find?_singleton, if_neg hbeq, Option.or_none]

/-- A further block of a table not named before puts its records in its table's place, which was empty
(44_container_framer R228, R232). -/
theorem gatherBlocks_append_singleton {c : Config} (hc : wfConfig c = true) (ht : d.table ∈ c.catalog)
    (hne : ∀ e ∈ ds, e.table.blockId ≠ d.table.blockId) :
    gatherBlocks c v m (ds ++ [d]) =
      (gatherBlocks c v m ds).set (blockIndex c d)
        ((gatherBlocks c v m ds).getD (blockIndex c d) [] ++ blockRecords v m d) := by
  have hself : c.catalog[blockIndex c d]? = some d.table := List.getElem?_idxOf ht
  have hempty : (gatherBlocks c v m ds).getD (blockIndex c d) [] = [] := by
    rw [gatherBlocks_eq, List.getD_eq_getElem?_getD, List.getElem?_map, hself]
    exact tableRecords_of_not_named v m hne
  rw [hempty, List.nil_append, gatherBlocks_eq, gatherBlocks_eq]
  refine List.ext_getElem? fun i => ?_
  rw [List.getElem?_set, List.length_map, List.getElem?_map, List.getElem?_map]
  have hlt : blockIndex c d < c.catalog.length := List.idxOf_lt_length_of_mem ht
  by_cases hi : blockIndex c d = i
  · rw [if_pos hi, ← hi, if_pos hlt, hself, Option.map_some, tableRecords_append_singleton_self v m hne]
  · rw [if_neg hi]
    refine Option.map_congr fun t hmem => tableRecords_append_singleton_of_ne v m fun heq => hi ?_
    have htable : d.table = t := table_eq_of_blockId_eq hc ht (List.mem_of_getElem? hmem) heq
    have hsame : c.catalog[blockIndex c d]? = c.catalog[i]? := hself.trans (htable ▸ hmem.symm)
    exact (List.getElem?_inj hlt ((catalog_blockIds_nodup hc).of_map _)).mp hsame

end

/-- Blocks of different tables have different places. -/
theorem blockIndex_not_mem {c : Config} {d : ImageBlock} {ds : List ImageBlock} (ht : d.table ∈ c.catalog)
    (hne : ∀ e ∈ ds, e.table.blockId ≠ d.table.blockId) : blockIndex c d ∉ (ds.map (blockIndex c)).reverse := by
  rw [List.mem_reverse, List.mem_map]
  rintro ⟨e, he, hidx⟩
  have htable : d.table = e.table := (List.idxOf_inj ht).mp hidx.symm
  exact hne e he (congrArg TableDesc.blockId htable.symm)

/-- The bytes of a list of blocks with one more. -/
theorem blocksBytes_append_singleton (m : LayoutMode) (ds : List ImageBlock) (d : ImageBlock) :
    blocksBytes m (ds ++ [d]) = blocksBytes m ds ++ blockBytes m d := by
  simp [blocksBytes]

/-- The loop of UNPACK over a list of blocks that it accepts (44_container_framer R225). -/
theorem unpackLoop_of_blocks {c : Config} (hc : wfConfig c = true) {v : Variant} {m : LayoutMode} {B : Buffer}
    {ds : List ImageBlock} {fuel p : Nat} (h : blocksBytes m ds <+: B.drop p) (hds : BlocksLegal c v m ds) :
    unpackLoop c v m B (fuel + ds.length) p (emptyTables c) [] false =
      unpackLoop c v m B fuel (p + (blocksBytes m ds).length) (gatherBlocks c v m ds)
        (ds.map (blockIndex c)).reverse (ds.any (blockRemainder v)) := by
  induction ds using List.reverseRecOn generalizing fuel with
  | nil =>
    rw [gatherBlocks_nil]
    rfl
  | append_singleton ds d ih =>
    obtain ⟨hbefore, hd, hne⟩ := blocksLegal_append_singleton hds
    have ht : d.table ∈ c.catalog := hd.1
    rw [blocksBytes_append_singleton] at h ⊢
    have hblock : blockBytes m d <+: B.drop (p + (blocksBytes m ds).length) := prefix_drop_of_append h rfl
    have hrest := ih (fuel := fuel + 1) ((List.prefix_append _ _).trans h) hbefore
    rw [List.length_append, List.length_singleton, Nat.add_comm ds.length, ← Nat.add_assoc, hrest,
      unpackLoop_of_block hc hblock hd (blockIndex_not_mem ht hne), ← gatherBlocks_append_singleton v m hc ht hne,
      List.length_append, Nat.add_assoc]
    simp

/-- Each block takes more than one byte, so the bytes of a list of blocks outnumber the blocks. -/
theorem length_le_length_blocksBytes {c : Config} {v : Variant} {m : LayoutMode} {ds : List ImageBlock}
    (h : ∀ d ∈ ds, BlockLegal c v m d) : ds.length ≤ (blocksBytes m ds).length := by
  induction ds with
  | nil => exact Nat.le_refl 0
  | cons d ds ih =>
    obtain ⟨hd, hds⟩ := List.forall_mem_cons.mp h
    have hblock := length_blockBytes hd
    have hrest := ih hds
    rw [blocksBytes, List.flatMap_cons, List.length_append, List.length_cons]
    rw [blocksBytes] at hrest
    omega

/-! ### UNPACK -/

/-- UNPACK of an image with a known device identifier runs the loop from the first header (44_container_framer
R225). -/
theorem exec_unpack_of_device {s : State} {v : Variant} {dev : U32} (h : ReadyToRead s)
    (hlen : 4 ≤ s.slots.inBuf.length) (hdev : get32F (s.slots.inBuf.take 4) s.layout = .ok dev)
    (hmaps : DeviceMaps s.cfg dev v) :
    exec .unpack s =
      answer s (unpackFinish dev (unpackLoop s.cfg v s.layout s.slots.inBuf (s.slots.inBuf.length + 1) 4
        (emptyTables s.cfg) [] false)) := by
  obtain ⟨hc, hmode, hfits⟩ := h
  have himage : imageDev s.slots.inBuf s.layout = .ok dev := by
    rw [imageDev, Config.devidBytes, if_neg (Nat.not_lt.mpr hlen), slice, List.drop_zero, hdev]
  rw [exec_eq_answer .unpack s nofun, replyFor, unpackReply, withMode_set s _ hmode, withInput_fits s _ hfits, himage,
    replyOf_ok, variantOf_of_deviceMaps hc hmaps, replyOf_ok]
  rfl

/-- The loop of UNPACK over a list of blocks that it accepts, up to a header whose length field is 0
(44_container_framer R225, R232). -/
theorem unpackLoop_of_blocks_terminal {c : Config} (hc : wfConfig c = true) {v : Variant} {m : LayoutMode}
    {B header rest : Buffer} {ds : List ImageBlock} {fuel p : Nat}
    (h : blocksBytes m ds ++ (header ++ rest) <+: B.drop p) (hds : BlocksLegal c v m ds) (hlen : header.length = 8)
    (hrest : 4 ≤ rest.length) (hzero : hlenF c header m = .ok 0) (hfuel : ds.length < fuel) :
    unpackLoop c v m B fuel p (emptyTables c) [] false =
      (ds.any (blockRemainder v), .ok (gatherBlocks c v m ds)) := by
  obtain ⟨n, rfl⟩ : ∃ n, fuel = n + 1 + ds.length := ⟨fuel - 1 - ds.length, by omega⟩
  have hterminal := readHeader_of_hlen_zero hc v (prefix_drop_of_append h rfl) hlen hrest hzero
  rw [unpackLoop_of_blocks hc ((List.prefix_append _ _).trans h) hds, unpackLoop, hterminal]

/-- UNPACK that went through with its tables (44_container_framer R225, R230). -/
theorem answer_unpackFinish_ok {s : State} (hc : ConfigOk s) (v : Variant) (dev : U32) (ds : List ImageBlock)
    (tbl : List (List Record)) :
    answer s (unpackFinish dev (ds.any (blockRemainder v), .ok tbl)) =
      endsOk s (blocksWarn v ds) { Results.empty with tsOut := some ⟨dev, tbl⟩ } := by
  refine (answer_done hc (Warn.mismatch _) _).trans ?_
  rw [blocksWarn]
  cases ds.any (blockRemainder v) <;> rfl

/-- Settles O58: the loop takes each block in turn into its table's place and stops at the header whose length field
is 0. -/
theorem unpackReadsBlocksInAnyOrder : Obligations.UnpackReadsBlocksInAnyOrder := by
  intro s v dev ds header rest h hlen hdev hmaps hds hheader hzero hrest himage
  have hc : ConfigOk s := h.1
  rw [List.append_assoc] at himage
  have hprefix : blocksBytes s.layout ds ++ (header ++ rest) <+: s.slots.inBuf.drop 4 := himage ▸ List.prefix_rfl
  have hfuel : ds.length < s.slots.inBuf.length + 1 := by
    have hblocks := length_le_length_blocksBytes hds.1
    have hin := length_le_of_prefix hprefix
    rw [List.length_append] at hin
    omega
  rw [exec_unpack_of_device h hlen hdev hmaps,
    unpackLoop_of_blocks_terminal hc hprefix hds hheader hrest hzero hfuel, answer_unpackFinish_ok hc]

end Sys2Proof.Machine

/-! SUPPORT. Proofs about the chunk splitter (45_chunk_splitter): the loop of `SPLIT_f` in closed form (R260), its
checks in order (R261), and how SPLIT ends with each (R262). -/

namespace Sys2Proof.Machine

/-! ### The loop in closed form -/

/-- `K = ceil(N / max)` of 45_chunk_splitter R260. -/
def chunkCount (N mx : Nat) : Nat := (N + mx - 1) / mx

/-- Chunk `k` of the closed form of 45_chunk_splitter R260. -/
def splitChunk (N base mx k : Nat) : Chunk := ⟨base + k * (mx / 4), k * mx, min mx (N - k * mx)⟩

/-- The closed form has a chunk `k` exactly when that chunk would start inside the buffer. -/
theorem lt_chunkCount_iff {N mx : Nat} (k : Nat) (hmx : 0 < mx) : k < chunkCount N mx ↔ k * mx < N := by
  rw [chunkCount, ← Nat.ceilDiv_eq_add_pred_div, ← not_le, ceilDiv_le_iff_le_mul hmx, not_le, Nat.mul_comm]

/-- The loop stops at the end of the buffer, whatever its fuel and its address (45_chunk_splitter R263). -/
theorem splitLoop_of_le {N off : Nat} (mx fuel addr : Nat) (h : N ≤ off) : splitLoop N mx fuel addr off = [] := by
  cases fuel with
  | zero => rfl
  | succ fuel => rw [splitLoop, if_neg (Nat.not_lt.mpr h)]

/-- One turn of the loop at chunk `k` yields that chunk and goes on at the place of chunk `k + 1`. A chunk shorter than
`mx` moves the loop elsewhere, but only to the end of the buffer, where it stops as it would at that place. -/
theorem splitLoop_succ {N mx k : Nat} (base fuel : Nat) (h : k * mx < N) :
    splitLoop N mx (fuel + 1) (base + k * (mx / 4)) (k * mx) =
      splitChunk N base mx k :: splitLoop N mx fuel (base + (k + 1) * (mx / 4)) ((k + 1) * mx) := by
  rw [splitLoop, if_pos h, splitChunk, Nat.succ_mul, Nat.succ_mul, ← Nat.add_assoc base]
  by_cases hfull : mx ≤ N - k * mx
  · rw [Nat.min_eq_left hfull]
  · rw [splitLoop_of_le _ _ _ (by omega), splitLoop_of_le _ _ _ (by omega)]

/-- With fuel for the bytes that are left, the loop yields the chunks from `k` on (45_chunk_splitter R260). -/
theorem splitLoop_eq_map_range' {N mx : Nat} (base fuel k : Nat) (hmx : 0 < mx) (hfuel : N ≤ k * mx + fuel) :
    splitLoop N mx fuel (base + k * (mx / 4)) (k * mx) =
      (List.range' k (chunkCount N mx - k)).map (splitChunk N base mx) := by
  induction fuel generalizing k with
  | zero =>
    have hcount : ¬ k < chunkCount N mx := by rwa [lt_chunkCount_iff k hmx, Nat.not_lt]
    rw [splitLoop, Nat.sub_eq_zero_of_le (Nat.not_lt.mp hcount)]
    rfl
  | succ fuel ih =>
    by_cases h : k * mx < N
    · have hcount : k < chunkCount N mx := (lt_chunkCount_iff k hmx).mpr h
      have hrange : chunkCount N mx - k = (chunkCount N mx - (k + 1)) + 1 := by omega
      have hnext : N ≤ (k + 1) * mx + fuel := by
        rw [Nat.succ_mul]
        omega
      rw [splitLoop_succ base fuel h, ih (k + 1) hnext, hrange, List.range'_succ, List.map_cons]
    · have hcount : ¬ k < chunkCount N mx := by rwa [lt_chunkCount_iff k hmx]
      rw [splitLoop_of_le _ _ _ (Nat.not_lt.mp h), Nat.sub_eq_zero_of_le (Nat.not_lt.mp hcount)]
      rfl

/-- The whole loop is the closed form: its fuel is the buffer's length (45_chunk_splitter R260, log 13). -/
theorem splitLoop_eq_closedForm {N mx : Nat} (base : Nat) (hmx : 0 < mx) :
    splitLoop N mx N base 0 = (List.range (chunkCount N mx)).map (splitChunk N base mx) := by
  have h := splitLoop_eq_map_range' base N 0 hmx (Nat.le_add_left N _)
  rwa [Nat.zero_mul, Nat.zero_mul, Nat.sub_zero, ← List.range_eq_range'] at h

/-! ### The checks in order -/

theorem splitF_of_base {base : Nat} (N mx : Nat) (h : 2 ^ 21 ≤ base) :
    splitF N base mx = .error .addressOutOfRange := by
  rw [splitF, Config.addrBits, if_pos h]

theorem splitF_of_chunkSize {base mx : Nat} (N : Nat) (hbase : base < 2 ^ 21) (h : mx = 0 ∨ mx % 4 ≠ 0) :
    splitF N base mx = .error .invalidChunkSize := by
  rw [splitF, Config.addrBits, if_neg (Nat.not_le.mpr hbase), if_pos h]

theorem splitF_of_past_top {N base mx : Nat} (hbase : base < 2 ^ 21) (hpos : 0 < mx) (hmod : mx % 4 = 0)
    (h : 2 ^ 21 < base + (N + 3) / 4) : splitF N base mx = .error .addressOutOfRange := by
  rw [splitF, Config.addrBits, if_neg (Nat.not_le.mpr hbase), if_neg (by omega), if_pos h]

theorem splitF_eq_closedForm {N base mx : Nat} (hbase : base < 2 ^ 21) (hpos : 0 < mx) (hmod : mx % 4 = 0)
    (h : base + (N + 3) / 4 ≤ 2 ^ 21) :
    splitF N base mx = .ok ((List.range (chunkCount N mx)).map (splitChunk N base mx)) := by
  rw [splitF, Config.addrBits, if_neg (Nat.not_le.mpr hbase), if_neg (by omega), if_neg (Nat.not_lt.mpr h),
    splitLoop_eq_closedForm base hpos]

/-! ### SPLIT -/

/-- SPLIT turns an `IN` longer than `MAX_BUF_BYTES` away (20_memory R62). -/
theorem exec_split_of_not_inputFits {s : State} (hc : ConfigOk s) (hfits : ¬ InputFits s) :
    exec .split s = endsError s 10 0 0 := by
  rw [exec_eq_answer .split s nofun, replyFor, splitReply, withInput_tooLong s _ hfits]
  exact answer_raising hc (by decide)

/-- SPLIT past the input check (45_chunk_splitter R262). -/
theorem exec_split_of_inputFits {s : State} (hfits : InputFits s) :
    exec .split s =
      answer s (replyOf (splitF s.slots.inBuf.length s.slots.a0.toNat s.slots.a1.toNat) doneChunks) := by
  rw [exec_eq_answer .split s nofun, replyFor, splitReply, withInput_fits s _ hfits, baseOperand, maxChunkOperand]

/-- SPLIT ends with the error of `SPLIT_f` (60_exceptions R297). -/
theorem exec_split_of_splitF_error {s : State} {e : Err} (hc : ConfigOk s) (hfits : InputFits s)
    (he : splitF s.slots.inBuf.length s.slots.a0.toNat s.slots.a1.toNat = .error e) :
    exec .split s = endsError s e.code 0 0 := by
  have hcode : e.code ≠ 7 := by
    have := splitF_error he
    revert this
    cases e <;> simp [Err.code]
  rw [exec_split_of_inputFits hfits, he, replyOf_error, answer_raising hc hcode]

/-- SPLIT returns the chunks of `SPLIT_f` (45_chunk_splitter R262). -/
theorem exec_split_of_splitF_ok {s : State} {chunks : List Chunk} (hc : ConfigOk s) (hfits : InputFits s)
    (hsplit : splitF s.slots.inBuf.length s.slots.a0.toNat s.slots.a1.toNat = .ok chunks) :
    exec .split s = endsOk s 0 { Results.empty with chunks := chunks } := by
  rw [exec_split_of_inputFits hfits, hsplit, replyOf_ok]
  exact answer_done hc Warn.none _

/-- Settles O54: behind the input check each clause is one branch of `SPLIT_f`, and the loop of the last is the closed
form. -/
theorem splitReturnsTheClosedForm : Obligations.SplitReturnsTheClosedForm := by
  intro s hc
  refine ⟨exec_split_of_not_inputFits hc, fun hf hbase => ?_, fun hf hbase hmx => ?_,
    fun hf hbase hpos hmod htop => ?_, fun hf hbase hpos hmod htop => ?_⟩
  · exact exec_split_of_splitF_error hc hf (splitF_of_base _ _ hbase)
  · exact exec_split_of_splitF_error hc hf (splitF_of_chunkSize _ hbase hmx)
  · exact exec_split_of_splitF_error hc hf (splitF_of_past_top hbase hpos hmod htop)
  · exact exec_split_of_splitF_ok hc hf (splitF_eq_closedForm hbase hpos hmod htop)

end Sys2Proof.Machine

/-! SUPPORT. Proofs about a configuration that breaks `WF_CAT` (60_exceptions R311): no reply, and so no command, gets
past it. -/

namespace Sys2Proof.Machine

/-- No reply gets past a configuration that breaks `WF_CAT` (60_exceptions R311). -/
theorem answer_of_wfCat_false {s : State} (r : Reply) (h : wfCat s.cfg = false) :
    answer s r = .refused .illFormedCatalog :=
  if_pos h

/-- Every instruction ends in `answer`, SETMODE on either path (60_exceptions R311). -/
theorem exec_of_wfCat_false (i : Instr) {s : State} (h : wfCat s.cfg = false) :
    exec i s = .refused .illFormedCatalog := by
  by_cases hi : i = .setmode
  · subst hi
    rcases exec_setmode_cases s with ⟨-, hs⟩ | ⟨-, hs⟩ <;> rw [hs] <;> exact answer_of_wfCat_false _ h
  · rw [exec_eq_answer i s hi]
    exact answer_of_wfCat_false _ h

/-- Settles O16: a legal word runs its instruction, an illegal one answers InvalidCommand, and neither gets past the
configuration, which loading the slots keeps. -/
theorem illFormedCatalogRefusesEveryCommand : Obligations.IllFormedCatalogRefusesEveryCommand := by
  refine ⟨fun i s h => exec_of_wfCat_false i h, fun s c rest h hp => ?_⟩
  cases hd : decode c.word with
  | error e =>
    rw [step_of_decode_error hp hd]
    exact answer_of_wfCat_false _ h
  | ok i =>
    rw [step_of_decode_ok hp hd]
    exact exec_of_wfCat_false i h

end Sys2Proof.Machine

/-! SUPPORT. Proofs about reset (70_reset R320): the values it leaves, and that no command undoes the established mode. -/

namespace Sys2Proof.Machine

/-- Settles O1: a new instance and the reset event leave the reset values, and only the reset event clears the flag. -/
theorem resetPutsTheModeToItsResetValue : Obligations.ResetPutsTheModeToItsResetValue := by
  refine ⟨fun c => ⟨State.resetWith_layout c, State.resetWith_layoutSet c⟩, fun s rest hp => ?_, exec_keeps_layoutSet⟩
  exact ⟨applyReset s rest, step_resetEvent s rest hp, applyReset_layout s rest, applyReset_layoutSet s rest⟩

end Sys2Proof.Machine

/-! SUPPORT. Proofs about the opcode map (30_encoding R98, R99): decoding and encoding agree, and the illegal words are
the words of no command. -/

namespace Sys2Proof.Machine

/-- A command word with no reserved bit is its opcode and its two one-bit fields (30_encoding R90). -/
theorem toNat_of_cmdReserved {w : U32} (h : cmdReserved w = 0) :
    w.toNat = cmdOp w + (cmdVar w).code * 2 ^ 8 + (cmdDir w).code * 2 ^ 9 := by
  have h8 : (cmdVar w).code = w.toNat / 2 ^ 8 % 2 := by
    rw [← Nat.toNat_testBit, BitVec.testBit_toNat, cmdVar]
    cases w.getLsbD 8 <;> rfl
  have h9 : (cmdDir w).code = w.toNat / 2 ^ 9 % 2 := by
    rw [← Nat.toNat_testBit, BitVec.testBit_toNat, cmdDir]
    cases w.getLsbD 9 <;> rfl
  rw [cmdReserved] at h
  rw [h8, h9, cmdOp]
  omega

/-- Every instruction decodes back from its word (30_encoding R98). -/
theorem decode_encode (i : Instr) : decode (encode i) = .ok i := by
  cases i with
  | entryDecode v => cases v <;> rfl
  | entryEncode v => cases v <;> rfl
  | msghdr d => cases d <;> rfl
  | _ => rfl

/-- The word the map gives an instruction is its encoding, `VAR` and `DIR` being 0 where R99 wants them so
(30_encoding R98, R99). -/
theorem encode_of_opcodeMap {op : Nat} {v : Variant} {d : Direction} {i : Instr} (h : opcodeMap op v d = some i)
    (hv : ¬ (v = .v1 ∧ op ≠ 0x30 ∧ op ≠ 0x31)) (hd : ¬ (d = .write ∧ op ≠ 0x51)) :
    encode i = BitVec.ofNat 32 (op + v.code * 2 ^ 8 + d.code * 2 ^ 9) := by
  unfold opcodeMap at h
  split at h
  case h_13 => cases h
  all_goals
    cases h
    cases v <;> cases d <;> simp [encode, Variant.code, Direction.code] at hv hd ⊢

/-- A word that decodes is the encoding of its instruction (30_encoding R98). -/
theorem eq_encode_of_decode {w : U32} {i : Instr} (h : decode w = .ok i) : w = encode i := by
  obtain ⟨hmap, hres, hvar, hdir⟩ := decode_eq_ok h
  rw [encode_of_opcodeMap hmap hvar hdir, ← toNat_of_cmdReserved hres, BitVec.ofNat_toNat, BitVec.setWidth_eq]

/-- Settles O4: a decoded word is put together again from its four fields, and each encoded word decodes. -/
theorem decodeAcceptsExactlyTheEncodedWords : Obligations.DecodeAcceptsExactlyTheEncodedWords :=
  fun _ i => ⟨eq_encode_of_decode, fun h => h ▸ decode_encode i⟩

/-- Every opcode of the map stands for an instruction (30_encoding R98). -/
theorem opcodeMap_of_mem {op : Nat} (v : Variant) (d : Direction)
    (h : op ∈ [0x01, 0x02, 0x10, 0x11, 0x20, 0x30, 0x31, 0x40, 0x41, 0x42, 0x50, 0x51]) :
    ∃ i, opcodeMap op v d = some i := by
  simp only [List.mem_cons, List.not_mem_nil, or_false] at h
  rcases h with rfl | rfl | rfl | rfl | rfl | rfl | rfl | rfl | rfl | rfl | rfl | rfl <;> exact ⟨_, rfl⟩

/-- A word that meets no condition of 30_encoding R99 decodes. -/
theorem decode_of_not_illegalWord {w : U32} (h : ¬ illegalWord w) : ∃ i, decode w = .ok i := by
  simp only [illegalWord, not_or, not_not] at h
  obtain ⟨hop, hres, hvar, hdir⟩ := h
  obtain ⟨i, hi⟩ := opcodeMap_of_mem (cmdVar w) (cmdDir w) hop
  have hvar' : ¬ (cmdVar w = .v1 ∧ cmdOp w ≠ 0x30 ∧ cmdOp w ≠ 0x31) := by
    rw [cmdVar_eq_v1]
    simpa [cmdOp] using hvar
  have hdir' : ¬ (cmdDir w = .write ∧ cmdOp w ≠ 0x51) := by
    rwa [cmdDir_eq_write]
  have hres' : ¬ cmdReserved w ≠ 0 := not_not_intro hres
  have hmap : opcodeMap (cmdOp w) (cmdVar w) (cmdDir w) = some i := hi
  exact ⟨i, by simp only [decode, hmap, if_neg hres', if_neg hvar', if_neg hdir']⟩

/-- Settles O5: the words that decode are the encodings, and the legal words are those that decode. -/
theorem illegalWordsAreTheWordsOfNoCommand : Obligations.IllegalWordsAreTheWordsOfNoCommand := by
  refine fun w => ⟨fun hw i he => not_illegalWord_of_decode (he ▸ decode_encode i) hw, fun hno => ?_⟩
  by_contra hw
  obtain ⟨i, hi⟩ := decode_of_not_illegalWord hw
  exact hno i (eq_encode_of_decode hi)

/-- Settles O6: each word is the encoding of its instruction. -/
theorem sampleWordsDecodeAsTheMapSays : Obligations.SampleWordsDecodeAsTheMapSays :=
  ⟨decode_encode .setmode, decode_encode .fieldGet, decode_encode .crc32, decode_encode (.entryDecode .v1),
    decode_encode .pack, decode_encode .split, decode_encode (.msghdr .write)⟩

end Sys2Proof.Machine

/-! SUPPORT. Proofs about every command and every step at once (10_state R30 to R32): one equation for what a command
does, and from it the frames, repetition (20_memory R68) and what reaches a command. -/

namespace Sys2Proof.Machine

/-! ### One equation for every command -/

/-- SETMODE with an operand that is a mode: the one command that changes more than the response (10_state R34). -/
abbrev EstablishesMode (i : Instr) (s : State) : Prop := i = .setmode ∧ s.slots.a0.toNat < 8

/-- The state a command answers in (10_state R34). -/
def stateAfter (i : Instr) (s : State) : State :=
  if EstablishesMode i s then establish s (BitVec.ofNat 3 s.slots.a0.toNat) else s

/-- The reply of every command, SETMODE's on both of its paths (40_mode_control R120). -/
def fullReply (i : Instr) (s : State) : Reply :=
  if i = .setmode ∧ ¬ s.slots.a0.toNat < 8 then raising .invalidCommand else replyFor i s

theorem fullReply_of_ne_setmode {i : Instr} (s : State) (h : i ≠ .setmode) : fullReply i s = replyFor i s :=
  if_neg fun hi => h hi.1

theorem stateAfter_of_ne_setmode {i : Instr} (s : State) (h : i ≠ .setmode) : stateAfter i s = s :=
  if_neg fun hi => h hi.1

/-- Every command answers its reply in the state after it. -/
theorem exec_eq_answer_stateAfter (i : Instr) (s : State) : exec i s = answer (stateAfter i s) (fullReply i s) := by
  by_cases hi : i = .setmode
  · subst hi
    by_cases ha : s.slots.a0.toNat < 8
    · rw [exec_setmode_of_lt ha, stateAfter, if_pos ⟨rfl, ha⟩, fullReply, if_neg fun h => h.2 ha]
      rfl
    · rw [exec_setmode_of_not_lt ha, stateAfter, if_neg fun h => ha h.2, fullReply, if_pos ⟨rfl, ha⟩]
  · rw [exec_eq_answer i s hi, stateAfter_of_ne_setmode s hi, fullReply_of_ne_setmode s hi]

@[simp] theorem stateAfter_cfg (i : Instr) (s : State) : (stateAfter i s).cfg = s.cfg := by
  unfold stateAfter
  split <;> rfl

@[simp] theorem stateAfter_slots (i : Instr) (s : State) : (stateAfter i s).slots = s.slots := by
  unfold stateAfter
  split <;> rfl

/-- Every next state of a command: under a well-formed configuration, the state after it with its response. -/
theorem exec_eq_next {i : Instr} {s t : State} :
    exec i s = .next t ↔ wfConfig s.cfg = true ∧ t = respond (stateAfter i s) (fullReply i s).response := by
  rw [exec_eq_answer_stateAfter, answer_eq_next, stateAfter_cfg]

/-! ### What reaches a command -/

section
variable {s u : State} (hcfg : u.cfg = s.cfg) (hslots : u.slots = s.slots)
include hcfg hslots

/-- A reply is made of the configuration, the mode and the slots alone (10_state R31). -/
theorem replyFor_congr (i : Instr) (hlayout : u.layout = s.layout) (hset : u.layoutSet = s.layoutSet) :
    replyFor i u = replyFor i s := by
  obtain ⟨cfg, layout, layoutSet, slots, pending, resp⟩ := s
  obtain ⟨cfg', layout', layoutSet', slots', pending', resp'⟩ := u
  cases hcfg
  cases hslots
  cases hlayout
  cases hset
  cases i <;> rfl

/-- CHECK_VALID and SPLIT do not read the mode (10_state R35). -/
theorem replyFor_of_no_mode {i : Instr} (hi : i ∈ [Instr.checkValid, Instr.split]) :
    replyFor i u = replyFor i s := by
  obtain ⟨cfg, layout, layoutSet, slots, pending, resp⟩ := s
  obtain ⟨cfg', layout', layoutSet', slots', pending', resp'⟩ := u
  cases hcfg
  cases hslots
  rcases List.mem_pair.mp hi with rfl | rfl <;> rfl

end

theorem fullReply_congr {s u : State} (i : Instr) (hcfg : u.cfg = s.cfg) (hlayout : u.layout = s.layout)
    (hset : u.layoutSet = s.layoutSet) (hslots : u.slots = s.slots) : fullReply i u = fullReply i s := by
  rw [fullReply, fullReply, replyFor_congr hcfg hslots i hlayout hset, hslots]

theorem stateAfter_layout_congr {s u : State} (i : Instr) (hlayout : u.layout = s.layout)
    (hslots : u.slots = s.slots) : (stateAfter i u).layout = (stateAfter i s).layout := by
  unfold stateAfter EstablishesMode
  rw [hslots]
  split
  · rfl
  · exact hlayout

theorem stateAfter_layoutSet_congr {s u : State} (i : Instr) (hset : u.layoutSet = s.layoutSet)
    (hslots : u.slots = s.slots) : (stateAfter i u).layoutSet = (stateAfter i s).layoutSet := by
  unfold stateAfter EstablishesMode
  rw [hslots]
  split
  · rfl
  · exact hset

/-- Settles O18: the reply and the mode after a command are made of what the two states share. -/
theorem onlyModeAndOperandsReachACommand : Obligations.OnlyModeAndOperandsReachACommand := by
  intro i s u t hcfg hlayout hset hslots h
  obtain ⟨hc, rfl⟩ := exec_eq_next.mp h
  refine ⟨_, exec_eq_next.mpr ⟨hcfg ▸ hc, rfl⟩, ?_, stateAfter_layout_congr i hlayout hslots,
    stateAfter_layoutSet_congr i hset hslots⟩
  rw [fullReply_congr i hcfg hlayout hset hslots, respond_resp, respond_resp]

/-! ### Repetition -/

/-- Once a mode is established, SETMODE establishes it again. -/
theorem stateAfter_respond_stateAfter (i : Instr) (s : State) (r : Response) :
    stateAfter i (respond (stateAfter i s) r) = respond (stateAfter i s) r := by
  by_cases h : EstablishesMode i s
  · have hs : stateAfter i s = establish s (BitVec.ofNat 3 s.slots.a0.toNat) := if_pos h
    rw [hs]
    exact if_pos h
  · have hs : stateAfter i s = s := if_neg h
    rw [hs]
    exact if_neg h

/-- Repeating a command repeats its reply (20_memory R68). -/
theorem fullReply_respond_stateAfter (i : Instr) (s : State) (r : Response) :
    fullReply i (respond (stateAfter i s) r) = fullReply i s := by
  by_cases hi : i = .setmode
  · subst hi
    rw [fullReply, fullReply, respond_slots, stateAfter_slots]
    rfl
  · rw [stateAfter_of_ne_setmode s hi]
    exact fullReply_congr i rfl rfl rfl rfl

/-- Settles O17: a second run answers the same reply in the same state. -/
theorem commandsAreIdempotent : Obligations.CommandsAreIdempotent := by
  intro i s t h
  obtain ⟨hc, rfl⟩ := exec_eq_next.mp h
  refine ⟨stateAfter_slots i s, exec_eq_next.mpr ⟨by rwa [respond_cfg, stateAfter_cfg], ?_⟩⟩
  rw [stateAfter_respond_stateAfter, fullReply_respond_stateAfter, respond_respond]

/-! ### Frames -/

/-- Settles O13: every command but SETMODE answers in the state it ran in. -/
theorem otherCommandsChangeOnlyTheResponse : Obligations.OtherCommandsChangeOnlyTheResponse := by
  intro i s t hi h
  obtain ⟨-, rfl⟩ := exec_eq_next.mp h
  rw [stateAfter_of_ne_setmode s hi]
  rfl

/-- Settles O14: both endings of SETMODE keep the slots, the inputs and the configuration. -/
theorem setmodeChangesOnlyTheModeAndTheResponse : Obligations.SetmodeChangesOnlyTheModeAndTheResponse := by
  intro s t h
  rcases exec_setmode_eq_next h with rfl | rfl <;> rfl

/-- No command changes the configuration (10_state R32). -/
theorem exec_keeps_cfg {i : Instr} {s t : State} (h : exec i s = .next t) : t.cfg = s.cfg := by
  obtain ⟨-, rfl⟩ := exec_eq_next.mp h
  exact stateAfter_cfg i s

/-- Settles O12: of the four things a step can do none touches the configuration. -/
theorem stepsNeverChangeTheConfiguration : Obligations.StepsNeverChangeTheConfiguration := by
  intro s t h
  rcases step_cases s with ⟨-, hs⟩ | ⟨rest, -, hs⟩ | ⟨c, rest, e, -, -, hs⟩ | ⟨c, rest, i, -, -, hs⟩ <;>
    rw [hs] at h
  · cases h
    rfl
  · cases h
    rfl
  · obtain ⟨-, rfl⟩ := (answer_eq_next _ _ _).mp h
    rfl
  · exact (exec_keeps_cfg h).trans (loadCommand_cfg s c rest)

/-! ### Every command answers, and every step goes on -/

/-- Every command ends in a next state under a well-formed configuration (60_exceptions R290). -/
theorem exec_of_configOk (i : Instr) {s : State} (hc : ConfigOk s) :
    exec i s = .next (respond (stateAfter i s) (fullReply i s).response) :=
  exec_eq_next.mpr ⟨hc, rfl⟩

/-- Settles O15: a step is idle, a reset, or one answer under the configuration, which loading the slots keeps. -/
theorem nothingStopsAWellFormedBlock : Obligations.NothingStopsAWellFormedBlock := by
  refine ⟨fun i s hc => ⟨_, _, exec_of_configOk i hc, rfl⟩, fun s hc => ?_⟩
  rcases step_cases s with ⟨-, hs⟩ | ⟨rest, -, hs⟩ | ⟨c, rest, e, -, -, hs⟩ | ⟨c, rest, i, -, -, hs⟩
  · exact ⟨_, hs⟩
  · exact ⟨_, hs⟩
  · exact ⟨_, hs.trans (answer_of_configOk _ _ hc)⟩
  · exact ⟨_, hs.trans (exec_of_configOk i hc)⟩

/-! ### Which command a step runs -/

/-- Settles O7: a decoded word runs its instruction on the slots that came with it; a reset event resets. -/
theorem stepRunsTheDecodedCommand : Obligations.StepRunsTheDecodedCommand :=
  ⟨fun _ _ _ _ hp hd => step_of_decode_ok hp hd, step_resetEvent⟩

/-- Without an input the word is placed as a command with the slots the state holds (log 12). -/
theorem withFetchWord_pending_of_nil {s : State} (w : U32) (h : s.pending = []) :
    (s.withFetchWord 32 w.toNat).pending = [.command ⟨w, s.slots⟩] := by
  rw [State.withFetchWord_pending, placeWord, h, Nat.mod_eq_of_lt w.isLt, BitVec.ofNat_toNat, BitVec.setWidth_eq]

/-- Settles O8: the placed word decodes to the instruction, and taking it leaves the state as it was. -/
theorem placedWordRunsNext : Obligations.PlacedWordRunsNext := by
  intro s i h
  have hload : loadCommand (s.withFetchWord 32 (encode i).toNat) ⟨encode i, s.slots⟩ [] = s := h ▸ rfl
  rw [step_of_decode_ok (withFetchWord_pending_of_nil (encode i) h) (decode_encode i), hload]

/-- Settles O9: the idle arm of the step. -/
theorem stepWithoutInputChangesNothing : Obligations.StepWithoutInputChangesNothing := by
  intro s h
  rw [step, fetch_nil s h, idle]

/-! ### After reset -/

/-- Settles O2: after reset GETMODE reads 0, the flag holds the accessor commands back, SETMODE establishes its operand,
CHECK_VALID and SPLIT do not read the mode, and an illegal word is turned away. -/
theorem afterResetOnlyTheAccessorCommandsWait : Obligations.AfterResetOnlyTheAccessorCommandsWait := by
  intro c sl hc
  refine ⟨answer_of_configOk _ _ hc, fun i hi hb => exec_of_mode_unset i _ hc rfl hi hb,
    fun ha => exec_setmode_of_legal _ hc ha, fun i hi m => ?_, fun w rest hw => ?_⟩
  · have hne : i ≠ .setmode := by
      rintro rfl
      exact absurd hi (by decide)
    let s : State := { State.resetWith c with slots := sl }
    have hreply := replyFor_of_no_mode (s := s) (u := { s with layout := m, layoutSet := true }) rfl rfl hi
    refine ⟨_, _, exec_of_configOk i hc, exec_of_configOk i hc, ?_⟩
    rw [respond_resp, respond_resp, fullReply_of_ne_setmode _ hne, fullReply_of_ne_setmode _ hne, hreply]
  · exact illegalCommandsRaiseInvalidCommand _ ⟨w, sl⟩ rest hc rfl (.inl hw)

end Sys2Proof.Machine

/-! SUPPORT. Proofs about the replies of the twelve commands (60_exceptions R291 to R297): which errors each inner
function can raise, and from them the statuses of every command and the invariant of every step. -/

namespace Sys2Proof.Machine

/-! ### The errors of the inner functions -/

theorem fieldGetF_error {B : Buffer} {msb lsb : Nat} {m : LayoutMode} {e : Err}
    (h : fieldGetF B msb lsb m = .error e) : e = .invalidFieldSpec ∨ e = .invalidLength := by
  rcases fieldGetF_cases B msb lsb m with ⟨e', he', hget⟩ | ⟨-, hget⟩
  · cases hget.symm.trans h
    exact checkField_error he'
  · cases hget.symm.trans h

theorem fieldSetF_error {B : Buffer} {msb lsb : Nat} {x : U64} {m : LayoutMode} {e : Err}
    (h : fieldSetF B msb lsb x m = .error e) : e = .invalidFieldSpec ∨ e = .invalidLength := by
  unfold fieldSetF at h
  split at h <;> cases h
  next he => exact checkField_error he

theorem crc32F_error_eq {B : Buffer} {m : LayoutMode} {e : Err} (h : crc32F B m = .error e) : e = .invalidLength := by
  by_cases hlen : B.length % 4 = 0
  · obtain ⟨crc, hcrc⟩ := crc32F_ok B m hlen
    cases hcrc.symm.trans h
  · cases (crc32F_error B m hlen).symm.trans h
    rfl

theorem lookup_error {c : Config} {bid : Nat} {v : Variant} {e : Err} (h : lookup c bid v = .error e) :
    e = .unknownBlockId := by
  unfold lookup at h
  split at h <;> cases h
  rfl

/-- A table that the lookup finds is in the catalog, with the form of the variant (43_entry_codec R191). -/
theorem lookup_ok {c : Config} {bid : Nat} {v : Variant} {t : Found} (h : lookup c bid v = .ok t) :
    t.table ∈ c.catalog ∧ t.table.blockId = bid ∧ formOf t.table v = some t.form := by
  unfold lookup at h
  split at h <;> cases h
  next hfrom => exact lookupFrom_eq_some hfrom

theorem lookup_wellFormed {c : Config} (hc : wfConfig c = true) {bid : Nat} {v : Variant} {t : Found}
    (h : lookup c bid v = .ok t) : t.form.wellFormed = true := by
  obtain ⟨hmem, -, hform⟩ := lookup_ok h
  exact form_wellFormed c hc t.table hmem v t.form hform

theorem entryDecodeF_error {f : TableForm} (hf : f.wellFormed = true) {E : Buffer} {m : LayoutMode} {e : Err}
    (h : entryDecodeF f E m = .error e) : e = .invalidLength := by
  by_cases hlen : E.length = f.size
  · cases (entryDecodeF_eq m hf hlen).symm.trans h
  · cases (entryDecodeF_of_length_ne m hlen).symm.trans h
    rfl

theorem entryEncodeF_error {f : TableForm} (hf : f.wellFormed = true) {r : Record} {m : LayoutMode} {e : Err}
    (h : entryEncodeF f r m = .error e) : e = .invalidLength := by
  by_cases hlen : r.length = f.schema.length
  · cases (entryEncodeF_eq m hf hlen).symm.trans h
  · cases (entryEncodeF_of_length_ne m hlen).symm.trans h
    rfl

/-- The 4 bytes of `MSGHDR_f` (45_chunk_splitter R267). -/
def msghdrBytes (d : Direction) (addr count : U64) (m : LayoutMode) : Buffer :=
  writeBits (writeBits (writeBits (zeros 4) 31 (BitVec.ofNat 64 d.code) m 1) 25 (headerCount d count) m 6) 4 addr m 21

/-- `MSGHDR_f` never fails: its fields are in 32 bits (45_chunk_splitter R267). -/
theorem msghdrF_eq (d : Direction) (addr count : U64) (m : LayoutMode) :
    msghdrF d addr count m =
      .ok (msghdrBytes d addr count m,
        truncates 1 (BitVec.ofNat 64 d.code) || truncates 6 (headerCount d count) || truncates 21 addr) := by
  have hlegal {E : Buffer} {msb lsb : Nat} (hE : E.length = 4) (hle : lsb ≤ msb) (hlt : msb < 32) :
      FieldLegal E.length msb lsb m := hE ▸ fieldLegal_four msb lsb m hle hlt
  rw [msghdrF, fieldSetF_legal _ 31 31 _ m (hlegal rfl (by decide) (by decide))]
  dsimp only
  rw [fieldSetF_legal _ 30 25 _ m (hlegal (writeBits_length ..) (by decide) (by decide))]
  dsimp only
  rw [fieldSetF_legal _ 24 4 _ m (hlegal (by rw [writeBits_length, writeBits_length]; rfl) (by decide) (by decide)),
    msghdrBytes]

/-- A known identifier is in the list with its variant (44_container_framer R211). -/
theorem deviceMaps_of_variantOf {c : Config} {dev : U32} {v : Variant} (h : variantOf c dev = .ok v) :
    DeviceMaps c dev v := by
  unfold variantOf at h
  split at h <;> cases h
  next d hfind => exact ⟨d, List.mem_of_find?_eq_some hfind, by simpa using List.find?_some hfind, rfl⟩

/-- Tables that pass are all fine (44_container_framer R216). -/
theorem tableFine_of_preflightTables {v : Variant} {ts : List TableDesc} {tbl : List (List Record)}
    (h : preflightTables v ts tbl = none) : ∀ p ∈ ts.zip tbl, tableFine v p.1 p.2 := by
  induction ts, tbl using preflightTables.induct v with
  | case1 t ts recs rest e he => cases (by rwa [preflightTables, he] at h : some e = none)
  | case2 t ts recs rest he ih =>
    rw [preflightTables, he] at h
    rw [List.zip_cons_cons, List.forall_mem_cons]
    exact ⟨preflightTable_eq_none.mp he, ih h⟩
  | case3 ts tbl hno =>
    cases ts with
    | nil => simp
    | cons t ts =>
      cases tbl with
      | nil => simp
      | cons recs rest => exact (hno t ts recs rest rfl rfl).elim

/-- A table set that passes the preflight is legal (44_container_framer R216). -/
theorem tableSetLegal_of_preflightF {c : Config} {ts : TableSet} {v : Variant} (h : preflightF c ts = .ok v) :
    TableSetLegal c v ts := by
  unfold preflightF at h
  split at h
  · cases h
  next u hu =>
    split at h
    · cases h
    next hlen =>
      split at h <;> cases h
      next htables =>
        exact ⟨deviceMaps_of_variantOf hu, not_not.mp hlen, tableFine_of_preflightTables htables⟩

/-- A legal table set has one list per catalog table (44_container_framer R216). -/
theorem TableSetLegal.map_fst_zip {c : Config} {v : Variant} {ts : TableSet} (h : TableSetLegal c v ts) :
    (c.catalog.zip ts.tbl).map Prod.fst = c.catalog := by
  obtain ⟨-, hlen, -⟩ := h
  exact List.map_fst_zip hlen.ge

/-- Each of its tables is fine (44_container_framer R216). -/
theorem TableSetLegal.fine {c : Config} {v : Variant} {ts : TableSet} (h : TableSetLegal c v ts)
    {p : TableDesc × List Record} (hp : p ∈ c.catalog.zip ts.tbl) : tableFine v p.1 p.2 := by
  obtain ⟨-, -, hfine⟩ := h
  exact hfine p hp

/-! ### The errors of UNPACK -/

theorem length_slice (B : Buffer) (a n : Nat) : (slice B a n).length = min n (B.length - a) := by
  rw [slice, List.length_take, List.length_drop]

theorem length_slice_of_le {B : Buffer} {a n : Nat} (h : a + n ≤ B.length) : (slice B a n).length = n := by
  rw [length_slice]
  omega

/-- The fields and the CRC of 8 bytes always read (44_container_framer R212). -/
theorem header_reads {c : Config} (hc : wfConfig c = true) (m : LayoutMode) {H8 : Buffer} (h : H8.length = 8) :
    ∃ lenw bid crc, hlenF c H8 m = .ok lenw ∧ hbidF c H8 m = .ok bid ∧ crc32F H8 m = .ok crc := by
  obtain ⟨hbid, hlen, -⟩ := header_legal c hc m
  obtain ⟨crc, hcrc⟩ := crc32F_ok H8 m (by omega)
  exact ⟨_, _, crc, fieldGetF_legal _ _ _ _ (h ▸ hlen), fieldGetF_legal _ _ _ _ (h ▸ hbid), hcrc⟩

/-- The header at a cursor, past the bounds check, in terms of what its bytes read (44_container_framer R225 steps 1
to 3). -/
theorem readHeader_of_reads {c : Config} {v : Variant} {m : LayoutMode} {B : Buffer} {p : Nat} {lenw bid : U64}
    {crc stored : U32} (hin : p + 12 ≤ B.length) (hlen : hlenF c (slice B p 8) m = .ok lenw)
    (hbid : hbidF c (slice B p 8) m = .ok bid) (hcrc : crc32F (slice B p 8) m = .ok crc)
    (hget : get32F (slice B (p + 8) 4) m = .ok stored) :
    readHeader c v m B p =
      if lenw = 0 then .ok .terminal
      else if crc ≠ stored then .error .headerCrcMismatch
      else (lookup c bid.toNat v).map fun t => .table t lenw.toNat := by
  have hbound : ¬ B.length < p + Config.hdrBytes := Nat.not_lt.mpr hin
  simp only [readHeader, if_neg hbound, hlen, hbid, hcrc, hget]
  cases lookup c bid.toNat v <;> rfl

theorem readHeader_of_short {c : Config} {v : Variant} {m : LayoutMode} {B : Buffer} {p : Nat}
    (h : B.length < p + 12) : readHeader c v m B p = .error .imageTruncated :=
  if_pos h

/-- Everything a header can be: in error, the terminal header, or one of a table of the catalog (44_container_framer
R225 steps 1 to 3). -/
theorem readHeader_cases {c : Config} (hc : wfConfig c = true) (v : Variant) (m : LayoutMode) (B : Buffer) (p : Nat) :
    (∃ e ∈ [Err.imageTruncated, .headerCrcMismatch, .unknownBlockId], readHeader c v m B p = .error e) ∨
      readHeader c v m B p = .ok .terminal ∨
      ∃ t lenw, readHeader c v m B p = .ok (.table t lenw) ∧ t.form.wellFormed = true := by
  by_cases hin : p + 12 ≤ B.length
  · have h8 : (slice B p 8).length = 8 := length_slice_of_le (by omega)
    obtain ⟨lenw, bid, crc, hlen, hbid, hcrc⟩ := header_reads hc m h8
    obtain ⟨stored, hget⟩ := get32F_ok (slice B (p + 8) 4) m (length_slice_of_le (by omega))
    rw [readHeader_of_reads hin hlen hbid hcrc hget]
    by_cases hzero : lenw = 0
    · exact .inr (.inl (if_pos hzero))
    · rw [if_neg hzero]
      by_cases hne : crc ≠ stored
      · exact .inl ⟨.headerCrcMismatch, by decide, if_pos hne⟩
      · rw [if_neg hne]
        cases hl : lookup c bid.toNat v with
        | error e => exact .inl ⟨e, by simp [lookup_error hl], rfl⟩
        | ok t => exact .inr (.inr ⟨t, lenw.toNat, rfl, lookup_wellFormed hc hl⟩)
  · exact .inl ⟨.imageTruncated, by decide, readHeader_of_short (by omega)⟩

/-- The errors of a header (44_container_framer R225 steps 1 to 3). -/
theorem readHeader_error {c : Config} (hc : wfConfig c = true) {v : Variant} {m : LayoutMode} {B : Buffer} {p : Nat}
    {e : Err} (h : readHeader c v m B p = .error e) :
    e ∈ [Err.imageTruncated, .headerCrcMismatch, .unknownBlockId] := by
  obtain ⟨e', hmem, hr⟩ | hr | ⟨t, lenw, hr, -⟩ := readHeader_cases hc v m B p <;> cases hr.symm.trans h
  exact hmem

/-- The table of a header has a well-formed form (44_container_framer R225 step 3). -/
theorem readHeader_table {c : Config} (hc : wfConfig c = true) {v : Variant} {m : LayoutMode} {B : Buffer} {p : Nat}
    {t : Found} {lenw : Nat} (h : readHeader c v m B p = .ok (.table t lenw)) : t.form.wellFormed = true := by
  obtain ⟨e', -, hr⟩ | hr | ⟨t, lenw, hr, hf⟩ := readHeader_cases hc v m B p <;> cases hr.symm.trans h
  exact hf

/-- The data of a table is decoded when its count and its bounds are met (44_container_framer R225 step 4). -/
theorem readBody_of_fits {t : Found} (m : LayoutMode) {B : Buffer} {b D : Nat} (hf : t.form.wellFormed = true)
    (hcount : D / t.form.size ≤ t.table.maxCount) (hin : b + D + 4 ≤ B.length) :
    readBody t m B b D = .ok ((List.range (D / t.form.size)).map (entryRecord t.form m (slice B b D))) := by
  have hregion : D / t.form.size * t.form.size ≤ (slice B b D).length := by
    rw [length_slice_of_le (by omega)]
    exact Nat.div_mul_le_self D t.form.size
  rw [readBody, if_neg (Nat.not_lt.mpr hcount), if_neg (Nat.not_lt.mpr hin)]
  exact unpackEntries_eq m hf (List.take_prefix D _) hregion

/-- The data of a table either breaks a bound or is decoded (44_container_framer R225 steps 6 and 4). -/
theorem readBody_cases {t : Found} (m : LayoutMode) (B : Buffer) (b D : Nat) (hf : t.form.wellFormed = true) :
    readBody t m B b D = .error .entryCountExceeded ∨ readBody t m B b D = .error .imageTruncated ∨
      b + D + 4 ≤ B.length ∧ D / t.form.size ≤ t.table.maxCount ∧ ∃ recs, readBody t m B b D = .ok recs := by
  by_cases hcount : t.table.maxCount < D / t.form.size
  · exact .inl (if_pos hcount)
  · by_cases hin : B.length < b + D + 4
    · exact .inr (.inl ((if_neg hcount).trans (if_pos hin)))
    · exact .inr (.inr ⟨Nat.not_lt.mp hin, Nat.not_lt.mp hcount, _,
        readBody_of_fits m hf (Nat.not_lt.mp hcount) (Nat.not_lt.mp hin)⟩)

/-- Inside the image a data CRC can only mismatch (44_container_framer R230, R231). -/
theorem checkDataCrc_error {m : LayoutMode} {B : Buffer} {b D : Nat} {e : Err} (hin : b + D + 4 ≤ B.length)
    (hD : D % 4 = 0) (h : checkDataCrc m B b D = some e) : e = .dataCrcMismatch := by
  obtain ⟨crc, hcrc⟩ := crc32F_ok (slice B b D) m (by rwa [length_slice_of_le (by omega)])
  obtain ⟨stored, hget⟩ := get32F_ok (slice B (b + D) 4) m (length_slice_of_le hin)
  simp only [checkDataCrc, hcrc, hget] at h
  split at h <;> cases h
  rfl

/-- The errors of the loop of UNPACK (44_container_framer R225). -/
theorem unpackLoop_error {c : Config} (hc : wfConfig c = true) {v : Variant} {m : LayoutMode} {B : Buffer}
    {fuel p : Nat} {tbl : List (List Record)} {seen : List Nat} {warn : Bool} {e : Err}
    (h : (unpackLoop c v m B fuel p tbl seen warn).2 = .error e) :
    e ∈ [Err.imageTruncated, .headerCrcMismatch, .unknownBlockId, .duplicateBlockId, .entryCountExceeded,
      .dataCrcMismatch] := by
  induction fuel generalizing p tbl seen warn with
  | zero =>
    cases h
    decide
  | succ fuel ih =>
    rw [unpackLoop] at h
    split at h
    next he =>
      cases h
      exact List.mem_append_left [Err.duplicateBlockId, .entryCountExceeded, .dataCrcMismatch] (readHeader_error hc he)
    next => cases h
    next t lenw ht =>
      split at h
      · cases h
        decide
      · have hf := readHeader_table hc ht
        rcases readBody_cases m B (p + 12) (4 * lenw) hf with hb | hb | ⟨hin, -, recs, hb⟩ <;> rw [hb] at h <;>
          dsimp only at h
        · cases h
          decide
        · cases h
          decide
        · split at h
          next hcrc =>
            cases h
            simp [checkDataCrc_error hin (by omega) hcrc]
          next => exact ih h

theorem imageDev_error {B : Buffer} {m : LayoutMode} {e : Err} (h : imageDev B m = .error e) : e = .imageTruncated := by
  unfold imageDev Config.devidBytes at h
  split at h
  · cases h
    rfl
  · obtain ⟨dev, hdev⟩ := get32F_ok (slice B 0 4) m (length_slice_of_le (by omega))
    cases hdev.symm.trans h

/-! ### The positions of the rule list and the addresses of chunks -/

/-- The failing position lies in the list (60_exceptions R294). -/
theorem firstFailing_bounds {c : Config} {ts : TableSet} {v : Variant} {rules : List ValidationRule} {i k : Nat}
    (h : firstFailing c ts v rules i = some k) : i ≤ k ∧ k < i + rules.length := by
  induction rules generalizing i with
  | nil => cases h
  | cons r rules ih =>
    rw [firstFailing] at h
    rw [List.length_cons]
    split at h
    · have := ih h
      omega
    · cases h
      omega

theorem length_ruleList (c : Config) : (ruleList c).length = 11 + c.extraRules.length := by
  simp only [ruleList, scheduleRules, requiredRules, List.length_append, List.length_cons, List.length_nil]

/-- The chunks of a successful `SPLIT_f` are the closed form, of a legal base and chunk size (45_chunk_splitter R260,
R261). -/
theorem splitF_ok {N base mx : Nat} {chunks : List Chunk} (h : splitF N base mx = .ok chunks) :
    0 < mx ∧ mx % 4 = 0 ∧ base + (N + 3) / 4 ≤ 2 ^ 21 ∧
      chunks = (List.range (chunkCount N mx)).map (splitChunk N base mx) := by
  by_cases hbase : 2 ^ 21 ≤ base
  · cases (splitF_of_base N mx hbase).symm.trans h
  · by_cases hmx : mx = 0 ∨ mx % 4 ≠ 0
    · cases (splitF_of_chunkSize N (Nat.not_le.mp hbase) hmx).symm.trans h
    · have hpos : 0 < mx := by omega
      have hmod : mx % 4 = 0 := by omega
      by_cases htop : 2 ^ 21 < base + (N + 3) / 4
      · cases (splitF_of_past_top (Nat.not_le.mp hbase) hpos hmod htop).symm.trans h
      · cases (splitF_eq_closedForm (Nat.not_le.mp hbase) hpos hmod (Nat.not_lt.mp htop)).symm.trans h
        exact ⟨hpos, hmod, Nat.not_lt.mp htop, rfl⟩

/-- A chunk of the closed form is one of its places, which starts inside the buffer (45_chunk_splitter R260). -/
theorem mem_splitChunks {N base mx : Nat} {k : Chunk} (hmx : 0 < mx)
    (h : k ∈ (List.range (chunkCount N mx)).map (splitChunk N base mx)) :
    ∃ n, n * mx < N ∧ k = splitChunk N base mx n := by
  obtain ⟨n, hn, rfl⟩ := List.mem_map.mp h
  exact ⟨n, (lt_chunkCount_iff n hmx).mp (List.mem_range.mp hn), rfl⟩

/-- Every chunk address of a successful `SPLIT_f` is a u21 (30_encoding R96). -/
theorem splitF_addr_lt {N base mx : Nat} {chunks : List Chunk} (h : splitF N base mx = .ok chunks) :
    ∀ k ∈ chunks, k.addr < 2 ^ 21 := by
  obtain ⟨hmx, hmod, htop, rfl⟩ := splitF_ok h
  intro k hk
  obtain ⟨n, hn, rfl⟩ := mem_splitChunks hmx hk
  obtain ⟨q, rfl⟩ := Nat.dvd_of_mod_eq_zero hmod
  have hstart : n * (4 * q) = 4 * (n * q) := Nat.mul_left_comm n 4 q
  have hdiv : 4 * q / 4 = q := Nat.mul_div_cancel_left q (by decide)
  simp only [splitChunk, hdiv]
  omega

/-! ### The replies of the commands -/

/-- A reply that 60_exceptions R291, R292, R294 and 30_encoding R96 let a command give under configuration `c`. -/
def ReplyAllowed (i : Instr) (c : Config) : Reply → Prop
  | .done w res => w.code ∈ allowedWarnings i ∧ ∀ k ∈ res.chunks, k.addr < 2 ^ 21
  | .raise w e => e.code ∈ allowedStatuses i ∧ w.code ∈ allowedWarnings i ∧
      ∀ sub, e = .configValidationFailure sub → 1 ≤ sub ∧ sub ≤ 11 + c.extraRules.length

/-- A command may raise an error that its row of 60_exceptions R291 lists, other than ConfigValidationFailure, which
takes a `SUB` with it (R294). -/
abbrev MayRaise (i : Instr) (e : Err) : Prop := e.code ∈ allowedStatuses i ∧ e.code ≠ 7

/-- Every command may end without a warning (60_exceptions R292). -/
theorem noWarning_mem_allowedWarnings (i : Instr) : 0 ∈ allowedWarnings i := by
  cases i <;> exact List.mem_cons_self

/-- Every command may end with OK (60_exceptions R291). -/
theorem ok_mem_allowedStatuses (i : Instr) : 0 ∈ allowedStatuses i := by
  cases i <;> exact List.mem_cons_self

section
variable {i : Instr} {c : Config}

theorem replyAllowed_raising {e : Err} (h : MayRaise i e) : ReplyAllowed i c (raising e) := by
  refine ⟨h.1, noWarning_mem_allowedWarnings i, ?_⟩
  rintro sub rfl
  exact absurd rfl h.2

theorem replyAllowed_done {res : Results} (h : res.chunks = []) : ReplyAllowed i c (.done Warn.none res) :=
  ⟨noWarning_mem_allowedWarnings i, by simp [h]⟩

theorem replyAllowed_doneOut (h : 1 ∈ allowedWarnings i) (trunc : Bool) (B : Buffer) :
    ReplyAllowed i c (doneOut trunc B) := by
  refine ⟨?_, by simp [Results.empty]⟩
  cases trunc
  · exact noWarning_mem_allowedWarnings i
  · exact h

theorem replyAllowed_replyOf {α : Type} {r : Except Err α} {k : α → Reply}
    (herr : ∀ e, r = .error e → MayRaise i e)
    (hok : ∀ a, r = .ok a → ReplyAllowed i c (k a)) : ReplyAllowed i c (replyOf r k) := by
  rcases replyOf_cases r k with ⟨e, he, hr⟩ | ⟨a, ha, hr⟩ <;> rw [hr]
  · exact replyAllowed_raising (herr e he)
  · exact hok a ha

variable {s : State}

theorem replyAllowed_withMode {k : LayoutMode → Reply} (h9 : 9 ∈ allowedStatuses i)
    (hk : ReplyAllowed i c (k s.layout)) : ReplyAllowed i c (withMode s k) := by
  rcases withMode_cases s k with ⟨-, hr⟩ | ⟨-, hr⟩ <;> rw [hr]
  · exact replyAllowed_raising ⟨h9, by decide⟩
  · exact hk

theorem replyAllowed_withInput {k : Buffer → Reply} (h10 : 10 ∈ allowedStatuses i)
    (hk : ReplyAllowed i c (k s.slots.inBuf)) : ReplyAllowed i c (withInput s k) := by
  rcases withInput_cases s k with ⟨-, hr⟩ | ⟨-, hr⟩ <;> rw [hr]
  · exact replyAllowed_raising ⟨h10, by decide⟩
  · exact hk

end

/-- A list of errors a command may raise covers each of its members. -/
theorem mayRaise_of_mem {i : Instr} {e : Err} {es : List Err} (h : e ∈ es) (hall : ∀ e ∈ es, MayRaise i e) :
    MayRaise i e := hall e h

section
variable {s : State}

theorem replyAllowed_fieldGet : ReplyAllowed .fieldGet s.cfg (fieldGetReply s) := by
  refine replyAllowed_withMode (by decide) (replyAllowed_withInput (by decide) (replyAllowed_replyOf (fun e he => ?_)
    fun _ _ => replyAllowed_done rfl))
  rcases fieldGetF_error he with rfl | rfl <;> decide

theorem replyAllowed_fieldSet : ReplyAllowed .fieldSet s.cfg (fieldSetReply s) := by
  refine replyAllowed_withMode (by decide) (replyAllowed_withInput (by decide) (replyAllowed_replyOf (fun e he => ?_)
    fun _ _ => replyAllowed_doneOut (by decide) _ _))
  rcases fieldSetF_error he with rfl | rfl <;> decide

theorem replyAllowed_crc32 : ReplyAllowed .crc32 s.cfg (crc32Reply s) := by
  refine replyAllowed_withMode (by decide) (replyAllowed_withInput (by decide) (replyAllowed_replyOf (fun e he => ?_)
    fun _ _ => replyAllowed_done rfl))
  rw [crc32F_error_eq he]
  decide

theorem replyAllowed_entryDecode (hc : ConfigOk s) (v : Variant) :
    ReplyAllowed (.entryDecode v) s.cfg (entryDecodeReply v s) := by
  refine replyAllowed_withMode (by simp [allowedStatuses]) (replyAllowed_withInput (by simp [allowedStatuses])
    (replyAllowed_replyOf (fun e he => ?_) fun t ht => replyAllowed_replyOf (fun e he => ?_)
      fun _ _ => replyAllowed_done rfl))
  · rw [lookup_error he]
    simp [MayRaise, allowedStatuses, Err.code]
  · rw [entryDecodeF_error (lookup_wellFormed hc ht) he]
    simp [MayRaise, allowedStatuses, Err.code]

theorem replyAllowed_entryEncode (hc : ConfigOk s) (v : Variant) :
    ReplyAllowed (.entryEncode v) s.cfg (entryEncodeReply v s) := by
  refine replyAllowed_withMode (by simp [allowedStatuses])
    (replyAllowed_replyOf (fun e he => ?_) fun t ht => replyAllowed_replyOf (fun e he => ?_)
      fun _ _ => replyAllowed_doneOut (by simp [allowedWarnings]) _ _)
  · rw [lookup_error he]
    simp [MayRaise, allowedStatuses, Err.code]
  · rw [entryEncodeF_error (lookup_wellFormed hc ht) he]
    simp [MayRaise, allowedStatuses, Err.code]

/-- UNPACK past its device identifier: an error of the loop or the tables (44_container_framer R225). -/
theorem replyAllowed_unpackFinish {c : Config} {dev : U32} {r : Bool × Except Err (List (List Record))}
    (h : ∀ e, r.2 = .error e → MayRaise .unpack e) :
    ReplyAllowed .unpack c (unpackFinish dev r) := by
  have hwarn : (Warn.mismatch r.1).code ∈ allowedWarnings .unpack := by
    cases r.1 <;> decide
  unfold unpackFinish
  split
  next e he =>
    refine ⟨(h e he).1, hwarn, ?_⟩
    rintro sub rfl
    exact absurd rfl (h _ he).2
  next => exact ⟨hwarn, by simp [Results.empty]⟩

theorem replyAllowed_unpack (hc : ConfigOk s) : ReplyAllowed .unpack s.cfg (unpackReply s) := by
  refine replyAllowed_withMode (by decide) (replyAllowed_withInput (by decide) (replyAllowed_replyOf (fun e he => ?_)
    fun _ _ => replyAllowed_replyOf (fun e he => ?_) fun _ _ => replyAllowed_unpackFinish fun e he =>
      mayRaise_of_mem (unpackLoop_error hc he) (by decide)))
  · rw [imageDev_error he]
    decide
  · rw [variantOf_error he]
    decide

/-- PACK after the image is made (44_container_framer R215). -/
theorem replyAllowed_packFinish (c : Config) (x : Buffer × Bool) : ReplyAllowed .pack c (packFinish c x) := by
  unfold packFinish
  split
  · refine ⟨by decide, ?_, nofun⟩
    cases x.2 <;> decide
  · exact replyAllowed_doneOut (by decide) _ _

theorem replyAllowed_pack (hc : ConfigOk s) : ReplyAllowed .pack s.cfg (packReply s) := by
  unfold packReply
  split
  · exact replyAllowed_raising (by decide)
  · refine replyAllowed_withMode (by decide) (replyAllowed_replyOf
      (fun _ he => mayRaise_of_mem (preflightF_error he) (by decide)) fun v hv => ?_)
    obtain ⟨x, hx⟩ := packImage_ok hc v s.layout (tableSetLegal_of_preflightF hv) (placeholderOperand s)
    rw [hx, replyOf_ok]
    exact replyAllowed_packFinish s.cfg x

theorem replyAllowed_checkValid : ReplyAllowed .checkValid s.cfg (checkValidReply s) := by
  refine replyAllowed_replyOf (fun _ he => mayRaise_of_mem (preflightF_error he) (by decide)) fun v _ => ?_
  split
  next k hk =>
    have hbounds := firstFailing_bounds hk
    rw [length_ruleList] at hbounds
    refine ⟨by simp [allowedStatuses, Err.code], by decide, fun sub hsub => ?_⟩
    cases hsub
    omega
  next => exact replyAllowed_done rfl

theorem replyAllowed_split : ReplyAllowed .split s.cfg (splitReply s) :=
  replyAllowed_withInput (by decide) (replyAllowed_replyOf
    (fun _ he => mayRaise_of_mem (splitF_error he) (by decide)) fun _ hs => ⟨by decide, splitF_addr_lt hs⟩)

theorem replyAllowed_msghdr (d : Direction) : ReplyAllowed (.msghdr d) s.cfg (msghdrReply d s) := by
  refine replyAllowed_withMode (by simp [allowedStatuses]) ?_
  rw [msghdrF_eq, replyOf_ok]
  exact replyAllowed_doneOut (by simp [allowedWarnings]) _ _

end

/-- Every command gives a reply it may give (60_exceptions R291, R292). -/
theorem replyAllowed_fullReply (i : Instr) {s : State} (hc : ConfigOk s) :
    ReplyAllowed i s.cfg (fullReply i s) := by
  unfold fullReply
  split
  next h =>
    obtain ⟨rfl, -⟩ := h
    exact replyAllowed_raising (by decide)
  next =>
    cases i with
    | setmode => exact replyAllowed_done rfl
    | getmode => exact replyAllowed_done rfl
    | fieldGet => exact replyAllowed_fieldGet
    | fieldSet => exact replyAllowed_fieldSet
    | crc32 => exact replyAllowed_crc32
    | entryDecode v => exact replyAllowed_entryDecode hc v
    | entryEncode v => exact replyAllowed_entryEncode hc v
    | unpack => exact replyAllowed_unpack hc
    | pack => exact replyAllowed_pack hc
    | checkValid => exact replyAllowed_checkValid
    | split => exact replyAllowed_split
    | msghdr d => exact replyAllowed_msghdr d

/-! ### The statuses and the warnings -/

/-- No error has status 0 (60_exceptions R291). -/
theorem status_raise_ne_zero (w : Warn) (e : Err) : (Reply.raise w e).response.status ≠ 0 := by
  obtain ⟨hpos, -⟩ := e.code_bounds
  rw [status_raise]
  exact Nat.ne_of_gt hpos

/-- The status and the warnings of an allowed reply are those listed for its command (60_exceptions R291, R292). -/
theorem status_warn_of_replyAllowed {i : Instr} {c : Config} {r : Reply} (h : ReplyAllowed i c r) :
    r.response.status ∈ allowedStatuses i ∧ r.response.warn ∈ allowedWarnings i := by
  cases r with
  | done w res =>
    obtain ⟨hwarn, -⟩ := h
    rw [status_done, Reply.response_done, warn_respWord]
    exact ⟨ok_mem_allowedStatuses i, hwarn⟩
  | raise w e =>
    obtain ⟨hcode, hwarn, -⟩ := h
    rw [status_raise, Reply.response_raise, warn_respWord]
    exact ⟨hcode, hwarn⟩

/-- Settles O21: every reply is one its command may give. -/
theorem commandsReturnOnlyTheirStatuses : Obligations.CommandsReturnOnlyTheirStatuses := by
  intro i s t r h hr
  obtain ⟨hc, rfl⟩ := exec_eq_next.mp h
  cases hr
  exact status_warn_of_replyAllowed (replyAllowed_fullReply i hc)

/-- An error reply leaves no result, and a `SUB` only with ConfigValidationFailure (60_exceptions R294, R296). -/
theorem response_of_status_ne_zero {r : Reply} (h : r.response.status ≠ 0) :
    r.response.results = Results.empty ∧ (r.response.status ≠ 7 → r.response.sub = 0) := by
  cases r with
  | done w res => exact absurd (status_done w res) h
  | raise w e =>
    refine ⟨rfl, fun h7 => ?_⟩
    rw [status_raise] at h7
    rw [Reply.response_raise, sub_respWord, Err.subReason_eq_zero e h7]
    rfl

/-- The mode is established with an OK reply (40_mode_control R120). -/
theorem stateAfter_of_status_ne_zero {i : Instr} {s : State} (h : (fullReply i s).response.status ≠ 0) :
    stateAfter i s = s := by
  refine if_neg ?_
  rintro ⟨rfl, ha⟩
  rw [fullReply, if_neg fun hn => hn.2 ha] at h
  exact h (status_done _ _)

/-- Settles O22: a command that ends with an error answers in the state it ran in, and its reply is an error's. -/
theorem errorsLeaveNoTrace : Obligations.ErrorsLeaveNoTrace := by
  intro i s t r h hr h0
  obtain ⟨-, rfl⟩ := exec_eq_next.mp h
  cases hr
  obtain ⟨hres, hsub⟩ := response_of_status_ne_zero h0
  rw [stateAfter_of_status_ne_zero h0]
  exact ⟨hres, rfl, rfl, hsub⟩

/-! ### The invariant -/

/-- At most 244 extra rules stand in a well-formed configuration (60_exceptions R294). -/
theorem extraRules_length_le {c : Config} (h : wfConfig c = true) : c.extraRules.length ≤ 244 := by
  simp only [wfConfig, wfParams, Bool.and_eq_true, decide_eq_true_eq] at h
  obtain ⟨-, ⟨⟨⟨⟨-, -⟩, -⟩, hlen⟩, -⟩⟩ := h
  exact hlen

/-- The response of an allowed reply is legal: no position of the rule list outgrows `SUB` (60_exceptions R294). -/
theorem responseLegal_of_replyAllowed {i : Instr} {c : Config} {r : Reply} (hc : wfConfig c = true)
    (h : ReplyAllowed i c r) : ResponseLegal c r.response := by
  cases r with
  | done w res =>
    obtain ⟨-, hchunks⟩ := h
    simpa [ResponseLegal] using hchunks
  | raise w e =>
    obtain ⟨-, -, hpos⟩ := h
    obtain ⟨-, hle⟩ := e.code_bounds
    have hextra := extraRules_length_le hc
    refine ⟨reserved_respWord .., by rwa [status_raise], fun h7 => ?_, fun h7 => ?_, fun _ => rfl,
      by simp [Results.empty]⟩
    · rw [status_raise] at h7
      rw [Reply.response_raise, sub_respWord, Err.subReason_eq_zero e h7]
      rfl
    · rw [status_raise] at h7
      obtain ⟨k, rfl⟩ := e.code_eq_seven h7
      have hk := hpos k rfl
      rw [Reply.response_raise, sub_respWord, Err.subReason, Nat.mod_eq_of_lt (by omega)]
      exact hk

/-- Answering an allowed reply keeps the invariant where the mode keeps its part of it. -/
theorem inv_respond {i : Instr} {s : State} {r : Reply} (hc : wfConfig s.cfg = true) (h : ReplyAllowed i s.cfg r)
    (hmode : s.layoutSet = false → s.layout = 0) : Inv (respond s r.response) := by
  refine ⟨hmode, fun r' hr' => ?_⟩
  obtain rfl : r' = r.response := by simpa using hr'
  exact responseLegal_of_replyAllowed hc h

/-- A command keeps the part of the invariant that speaks of the mode (10_state R35). -/
theorem stateAfter_keeps_mode_inv {i : Instr} {s : State} (h : s.layoutSet = false → s.layout = 0) :
    (stateAfter i s).layoutSet = false → (stateAfter i s).layout = 0 := by
  unfold stateAfter
  split
  · exact nofun
  · exact h

/-- Settles O11: the mode holds its reset value, and there is no response yet. -/
theorem resetMeetsTheInvariant : Obligations.ResetMeetsTheInvariant :=
  fun _ => ⟨fun _ => rfl, nofun⟩

/-- Settles O10: an idle step keeps the state, a reset its inputs alone, and any other step answers an allowed reply. -/
theorem everyStepKeepsTheInvariant : Obligations.EveryStepKeepsTheInvariant := by
  intro s t hinv h
  obtain ⟨hmode, -⟩ := id hinv
  rcases step_cases s with ⟨-, hs⟩ | ⟨rest, -, hs⟩ | ⟨c, rest, e, -, -, hs⟩ | ⟨c, rest, i, -, -, hs⟩ <;>
    rw [hs] at h
  · cases h
    exact hinv
  · cases h
    exact ⟨fun _ => rfl, nofun⟩
  · obtain ⟨hc, rfl⟩ := (answer_eq_next _ _ _).mp h
    exact inv_respond hc (replyAllowed_raising (i := .setmode) (by decide)) hmode
  · obtain ⟨hc, rfl⟩ := exec_eq_next.mp h
    have hallowed := replyAllowed_fullReply i hc
    rw [← stateAfter_cfg i] at hc hallowed
    exact inv_respond hc hallowed (stateAfter_keeps_mode_inv hmode)

end Sys2Proof.Machine

/-! SUPPORT. Proofs about the mapping of logical to physical bits (20_memory R63, R64; 41_field_accessor R141 to R144):
it is a bijection, its stages commute, and the byte order of each mode. -/

namespace Sys2Proof.Machine

section
variable {m : LayoutMode} {L : Nat} (hL : (m.getLsbD 1 = true ∨ m.getLsbD 2 = true) → L % 4 = 0)
include hL

/-- Every byte of the buffer is a logical byte's: undo the reversal, the swap and the base mapping in turn
(41_field_accessor R143). -/
theorem exists_phys_eq {a : Nat} (ha : a < L) : ∃ k, k < L ∧ phys k L m = a := by
  have hrev : wrevOn m = true → L % 4 = 0 := fun h => hL (.inr h)
  have hr : reverseWords m L a < L := reverseWords_lt hrev ha
  have hs : swapInWord m (reverseWords m L a) < L := swapInWord_lt (fun h => hL (.inl h)) hr
  refine ⟨L - 1 - swapInWord m (reverseWords m L a), by omega, ?_⟩
  rw [phys, Nat.sub_sub_self (by omega), swapInWord_swapInWord, reverseWords_reverseWords hrev ha]

/-- Every bit of the buffer is a logical bit's (41_field_accessor R143). -/
theorem exists_physBit_eq {a j : Nat} (ha : a < L) (hj : j < 8) : ∃ p, p < 8 * L ∧ physBit p L m = (a, j) := by
  obtain ⟨k, hk, rfl⟩ := exists_phys_eq hL ha
  have hb := bitpos_lt m hj
  have hdiv : (8 * k + bitpos j m) / 8 = k := by omega
  have hmod : (8 * k + bitpos j m) % 8 = bitpos j m := by omega
  exact ⟨8 * k + bitpos j m, by omega, by rw [physBit, hdiv, hmod, bitpos_bitpos m hj]⟩

end

/-- Settles O28: the mapping stays in the buffer, is injective, and each bit has a logical bit. -/
theorem physBitIsABijection : Obligations.PhysBitIsABijection :=
  fun _ _ hL => ⟨fun _ hp => physBit_lt hL hp, fun _ _ hp hq h => physBit_inj hL hp hq h,
    fun _ _ ha hj => exists_physBit_eq hL ha hj⟩

/-- Settles O29: the swap moves a byte inside its word, the reversal its word as a whole. -/
theorem swapAndReversalCommute : Obligations.SwapAndReversalCommute := by
  intro m L a hL ha
  unfold swapInWord reverseWords
  cases bswapOn m <;> cases wrevOn m <;> simp only [Bool.false_eq_true, if_true, if_false]
  omega

/-! ### The byte order of each mode -/

/-- Neither word transform applies (20_memory R64). -/
theorem phys_of_no_transform {m : LayoutMode} {L k : Nat} (hswap : m.getLsbD 1 = false) (hrev : m.getLsbD 2 = false) :
    phys k L m = L - 1 - k := by
  simp only [phys, reverseWords, swapInWord, bswapOn, wrevOn, hswap, hrev, Bool.false_eq_true, if_false]

section
variable {n q r : Nat} (hq : q < n) (hr : r < 4)
include hq hr

/-- BSWAP alone: the words big-endian, the bytes of a word little-endian (20_memory R64). -/
theorem phys_bswap : phys (4 * q + r) (4 * n) 0b010 = 4 * (n - 1 - q) + r := by
  have hswap : bswapOn 0b010 = true := rfl
  have hrev : wrevOn 0b010 = false := rfl
  simp only [phys, reverseWords, swapInWord, hswap, hrev, Bool.false_eq_true, if_true, if_false]
  omega

/-- WREV alone: word 0 first, the bytes of a word big-endian (20_memory R64). -/
theorem phys_wrev : phys (4 * q + r) (4 * n) 0b100 = 4 * q + (3 - r) := by
  have hswap : bswapOn 0b100 = false := rfl
  have hrev : wrevOn 0b100 = true := rfl
  simp only [phys, reverseWords, swapInWord, hswap, hrev, Bool.false_eq_true, if_true, if_false]
  omega

/-- BSWAP and WREV: little-endian throughout (20_memory R64). -/
theorem phys_bswap_wrev : phys (4 * q + r) (4 * n) 0b110 = 4 * q + r := by
  have hswap : bswapOn 0b110 = true := rfl
  have hrev : wrevOn 0b110 = true := rfl
  simp only [phys, reverseWords, swapInWord, hswap, hrev, if_true]
  omega

end

/-- MIRROR does not move a byte (20_memory R64). -/
theorem phys_or_mirror (k L : Nat) (m : LayoutMode) : phys k L (m ||| 0b001) = phys k L m := by
  have hswap : bswapOn (m ||| 0b001) = bswapOn m := by simp [bswapOn]
  have hrev : wrevOn (m ||| 0b001) = wrevOn m := by simp [wrevOn]
  simp only [phys, reverseWords, swapInWord, hswap, hrev]

theorem mirrorOn_or_mirror (m : LayoutMode) : mirrorOn (m ||| 0b001) = true := by
  simp [mirrorOn]

/-- Settles O30: the mapping is computed for each pair of word transforms, and MIRROR moves no byte. -/
theorem modesGiveTheirByteOrders : Obligations.ModesGiveTheirByteOrders := by
  refine ⟨fun m L k hswap hrev _ => phys_of_no_transform hswap hrev, fun n q r hq hr =>
    ⟨phys_of_no_transform rfl rfl, phys_bswap hq hr, phys_wrev hq hr, phys_bswap_wrev hq hr,
      fun m _ => phys_or_mirror _ _ m, fun m j _ hm => ⟨?_, ?_⟩⟩⟩
  · rw [bitpos, mirrorOn_or_mirror, if_pos rfl]
  · rw [bitpos, mirrorOn, hm, if_neg Bool.false_ne_true]

end Sys2Proof.Machine

/-! SUPPORT. Proofs about the byte walk of the source (41_field_accessor R145, R147): bit by bit it reads and
writes what the definitions of R146 and R148 do. -/

namespace Sys2Proof.Machine

/-- Bit `i` of a box's bits is logical bit `e + i` of its byte (41_field_accessor R145). -/
theorem testBit_boxBits (b : Byte) (m : LayoutMode) (e n i : Nat) :
    (boxBits b m e n).testBit i = (decide (i < n) && b.getLsbD (bitpos (e + i) m)) := by
  have hlt (k : Nat) : boxBits b m e k < 2 ^ k := by
    induction k with
    | zero => simp [boxBits]
    | succ k ih =>
      have hb : (b.getLsbD (bitpos (e + k) m)).toNat * 2 ^ k ≤ 1 * 2 ^ k := Nat.mul_le_mul_right _ (Bool.toNat_le _)
      rw [boxBits, Nat.pow_succ]
      omega
  induction n with
  | zero => simp [boxBits]
  | succ n ih =>
    rw [boxBits, Nat.mul_comm, Nat.add_comm, Nat.testBit_two_pow_mul_add _ (hlt n), ih]
    by_cases hi : i < n
    · simp [hi, Nat.lt_succ_of_lt hi]
    · by_cases hin : i = n
      · subst hin
        cases b.getLsbD (bitpos (e + i) m) <;> simp
      · have hz : i - n ≠ 0 := by omega
        have hi' : ¬ i < n + 1 := by omega
        simp [hi, hi', Nat.testBit_bool_toNat, hz]

/-- A logical bit is a bit of its byte (41_field_accessor R143). -/
theorem logicalBit_eq_byteBit (B : Buffer) (m : LayoutMode) (p : Nat) :
    logicalBit B m p = (B.getD (phys (p / 8) B.length m) 0).getLsbD (bitpos (p % 8) m) := rfl

/-! ### Reading -/

section
variable {msb lsb box : Nat} (hle : lsb ≤ msb) (hlo : lsb / 8 ≤ box) (hhi : box ≤ msb / 8)
include hle hlo hhi

/-- The positions of the value that a box holds are those of the field's bits in its byte (41_field_accessor R145). -/
theorem box_positions_iff (i : Nat) :
    (8 * box + boxEnd lsb box - lsb ≤ i ∧
        i - (8 * box + boxEnd lsb box - lsb) < boxStart msb box + 1 - boxEnd lsb box) ↔
      i ≤ msb - lsb ∧ (lsb + i) / 8 = box := by
  unfold boxStart boxEnd
  split <;> split <;> omega

/-- A box contributes the field's bits in its byte (41_field_accessor R145). -/
theorem testBit_boxValue (B : Buffer) (m : LayoutMode) (i : Nat) :
    (boxValue B msb lsb m box).testBit i =
      (decide (i ≤ msb - lsb ∧ (lsb + i) / 8 = box) && logicalBit B m (lsb + i)) := by
  have hin : (decide (8 * box + boxEnd lsb box - lsb ≤ i) &&
      decide (i - (8 * box + boxEnd lsb box - lsb) < boxStart msb box + 1 - boxEnd lsb box)) =
      decide (i ≤ msb - lsb ∧ (lsb + i) / 8 = box) := by
    rw [← Bool.decide_and, decide_eq_decide]
    exact box_positions_iff hle hlo hhi i
  rw [boxValue, Nat.testBit_mul_two_pow, testBit_boxBits, ← Bool.and_assoc, hin]
  by_cases h : i ≤ msb - lsb ∧ (lsb + i) / 8 = box
  · obtain ⟨-, rfl⟩ := h
    have hbit : boxEnd lsb ((lsb + i) / 8) + (i - (8 * ((lsb + i) / 8) + boxEnd lsb ((lsb + i) / 8) - lsb)) =
        (lsb + i) % 8 := by
      unfold boxEnd
      split <;> omega
    rw [hbit]
    rfl
  · simp [h]

end

/-- The lowest `n` boxes contribute the field's bits in their bytes (41_field_accessor R145). -/
theorem testBit_walkBoxes {msb lsb : Nat} (hle : lsb ≤ msb) (B : Buffer) (m : LayoutMode) {n : Nat}
    (hn : lsb / 8 + n ≤ msb / 8 + 1) (i : Nat) :
    (walkBoxes B msb lsb m n).testBit i =
      (decide (i ≤ msb - lsb ∧ (lsb + i) / 8 < lsb / 8 + n) && logicalBit B m (lsb + i)) := by
  induction n with
  | zero =>
    have hno : ¬ (i ≤ msb - lsb ∧ (lsb + i) / 8 < lsb / 8 + 0) := by omega
    rw [walkBoxes, Nat.zero_testBit, decide_eq_false hno, Bool.false_and]
  | succ n ih =>
    have hiff : (i ≤ msb - lsb ∧ (lsb + i) / 8 < lsb / 8 + (n + 1)) ↔
        (i ≤ msb - lsb ∧ (lsb + i) / 8 = lsb / 8 + n) ∨ (i ≤ msb - lsb ∧ (lsb + i) / 8 < lsb / 8 + n) := by omega
    rw [walkBoxes, Nat.testBit_or, testBit_boxValue hle (by omega) (by omega), ih (by omega),
      decide_eq_decide.mpr hiff, Bool.decide_or, Bool.and_or_distrib_right]

/-- The boxes from the byte of `lsb` to the byte of `msb` read the field (41_field_accessor R147). -/
theorem walkBoxes_eq_readBits {msb lsb : Nat} (hle : lsb ≤ msb) (B : Buffer) (m : LayoutMode) :
    walkBoxes B msb lsb m (msb / 8 + 1 - lsb / 8) = readBits B lsb m (msb - lsb + 1) := by
  refine Nat.eq_of_testBit_eq fun i => ?_
  have hiff : (i ≤ msb - lsb ∧ (lsb + i) / 8 < lsb / 8 + (msb / 8 + 1 - lsb / 8)) ↔ i < msb - lsb + 1 := by omega
  rw [testBit_walkBoxes hle B m (by omega), testBit_readBits_eq, decide_eq_decide.mpr hiff]

/-- Settles O31: the checks are the same, and past them the boxes read the field's bits. -/
theorem byteWalkReadsTheField : Obligations.ByteWalkReadsTheField := by
  intro B msb lsb m
  rcases fieldGetF_cases B msb lsb m with ⟨e, he, hget⟩ | ⟨hlegal, hget⟩
  · rw [hget, fieldGetWalk, he]
  · rw [hget, fieldGetWalk, (checkField_eq_none _ _ _ _).mpr hlegal, ← walkBoxes_eq_readBits hlegal.1]

/-! ### Writing -/

/-- Buffers of one length with the same logical bits are the same (41_field_accessor R143). -/
theorem eq_of_logicalBit_eq {B C : Buffer} {m : LayoutMode} (hlen : C.length = B.length)
    (hL : (m.getLsbD 1 = true ∨ m.getLsbD 2 = true) → B.length % 4 = 0)
    (h : ∀ p, p < 8 * B.length → logicalBit C m p = logicalBit B m p) : C = B := by
  refine List.ext_getElem hlen fun a hC hB => BitVec.eq_of_getLsbD_eq fun j hj => ?_
  obtain ⟨p, hp, hpos⟩ := exists_physBit_eq hL hB hj
  have hbit := h p hp
  rw [logicalBit, logicalBit, hlen, hpos] at hbit
  simpa [bufBit, hC, hB] using hbit

theorem bitpos_inj {m : LayoutMode} {i j : Nat} (hi : i < 8) (hj : j < 8) : bitpos i m = bitpos j m ↔ i = j :=
  ⟨fun h => by rw [← bitpos_bitpos m hi, h, bitpos_bitpos m hj], fun h => h ▸ rfl⟩

/-- A logical bit of a byte after `n` of its logical bits from `e` on took the value's bits from `h` on
(41_field_accessor R145). -/
theorem getLsbD_storeBoxBits (b : Byte) (m : LayoutMode) {e : Nat} (x : U64) (h : Nat) {n j : Nat} (hn : e + n ≤ 8)
    (hj : j < 8) :
    (storeBoxBits b m e x h n).getLsbD (bitpos j m) =
      if e ≤ j ∧ j < e + n then x.getLsbD (h + (j - e)) else b.getLsbD (bitpos j m) := by
  induction n with
  | zero => rw [storeBoxBits, if_neg (by omega)]
  | succ n ih =>
    rw [storeBoxBits, getLsbD_byteWithBit _ _ _ _ (bitpos_lt m (by omega)), if_congr (bitpos_inj hj (by omega)) rfl rfl,
      ih (by omega)]
    by_cases hjn : j = e + n
    · have hin : e ≤ j ∧ j < e + (n + 1) := by omega
      rw [if_pos hjn, if_pos hin, hjn, Nat.add_sub_cancel_left]
    · have hiff : (e ≤ j ∧ j < e + n) ↔ (e ≤ j ∧ j < e + (n + 1)) := by omega
      rw [if_neg hjn, if_congr hiff rfl rfl]

@[simp] theorem storeBox_length (B : Buffer) (msb lsb : Nat) (x : U64) (m : LayoutMode) (box : Nat) :
    (storeBox B msb lsb x m box).length = B.length := List.length_set

@[simp] theorem storeBoxes_length (msb lsb : Nat) (x : U64) (m : LayoutMode) (n : Nat) (B : Buffer) :
    (storeBoxes msb lsb x m n B).length = B.length := by
  induction n generalizing B with
  | zero => rfl
  | succ n ih => rw [storeBoxes, ih, storeBox_length]

section
variable {B : Buffer} {msb lsb : Nat} {m : LayoutMode} (x : U64) (h : FieldLegal B.length msb lsb m)
include h

/-- A logical bit after one box took its bits: the value's bit where the box holds a bit of the field, the bit that was
there elsewhere (41_field_accessor R145). -/
theorem logicalBit_storeBox {box p : Nat} (hlo : lsb / 8 ≤ box) (hhi : box ≤ msb / 8) (hp : p < 8 * B.length) :
    logicalBit (storeBox B msb lsb x m box) m p =
      if p / 8 = box ∧ lsb ≤ p ∧ p ≤ msb then x.getLsbD (p - lsb) else logicalBit B m p := by
  obtain ⟨hle, -, hlt, hL⟩ := h
  have hj : p % 8 < 8 := Nat.mod_lt _ (by decide)
  rw [logicalBit_eq_byteBit, logicalBit_eq_byteBit, storeBox_length, storeBox]
  by_cases hbox : p / 8 = box
  · subst hbox
    have hin : phys (p / 8) B.length m < B.length := phys_lt hL (by omega)
    have hend : boxEnd lsb (p / 8) + (boxStart msb (p / 8) + 1 - boxEnd lsb (p / 8)) ≤ 8 := by
      unfold boxEnd boxStart
      split <;> split <;> omega
    have hiff : (boxEnd lsb (p / 8) ≤ p % 8 ∧
        p % 8 < boxEnd lsb (p / 8) + (boxStart msb (p / 8) + 1 - boxEnd lsb (p / 8))) ↔
          p / 8 = p / 8 ∧ lsb ≤ p ∧ p ≤ msb := by
      unfold boxEnd boxStart
      split <;> split <;> omega
    rw [List.getD_eq_getElem?_getD, List.getElem?_set_self hin, Option.getD_some,
      getLsbD_storeBoxBits _ m x _ hend hj, if_congr hiff rfl rfl]
    refine ite_congr rfl (fun hfield => ?_) fun _ => rfl
    have hpos : 8 * (p / 8) + boxEnd lsb (p / 8) - lsb + (p % 8 - boxEnd lsb (p / 8)) = p - lsb := by
      unfold boxEnd
      split <;> omega
    rw [hpos]
  · have hne : phys box B.length m ≠ phys (p / 8) B.length m :=
      fun heq => hbox (phys_inj hL (by omega) (by omega) heq).symm
    rw [if_neg fun hc => hbox hc.1, List.getD_eq_getElem?_getD, List.getElem?_set_ne hne, ← List.getD_eq_getElem?_getD]

/-- A logical bit after the lowest `n` boxes took their bits (41_field_accessor R145). -/
theorem logicalBit_storeBoxes {n p : Nat} (hn : lsb / 8 + n ≤ msb / 8 + 1) (hp : p < 8 * B.length) :
    logicalBit (storeBoxes msb lsb x m n B) m p =
      if p / 8 < lsb / 8 + n ∧ lsb ≤ p ∧ p ≤ msb then x.getLsbD (p - lsb) else logicalBit B m p := by
  induction n generalizing B with
  | zero => rw [storeBoxes, if_neg (by omega)]
  | succ n ih =>
    have hlen := storeBox_length B msb lsb x m (lsb / 8 + n)
    rw [storeBoxes, ih (by rwa [hlen]) (by omega) (by rwa [hlen]),
      logicalBit_storeBox x h (by omega) (by omega) hp]
    by_cases hin : p / 8 < lsb / 8 + n ∧ lsb ≤ p ∧ p ≤ msb
    · rw [if_pos hin, if_pos (by omega)]
    · have hiff : (p / 8 = lsb / 8 + n ∧ lsb ≤ p ∧ p ≤ msb) ↔ (p / 8 < lsb / 8 + (n + 1) ∧ lsb ≤ p ∧ p ≤ msb) := by
        omega
      rw [if_neg hin, if_congr hiff rfl rfl]

/-- The boxes from the byte of `lsb` to the byte of `msb` write the field (41_field_accessor R148). -/
theorem storeBoxes_eq_writeBits :
    storeBoxes msb lsb x m (msb / 8 + 1 - lsb / 8) B = writeBits B lsb x m (msb - lsb + 1) := by
  obtain ⟨hle, -, hlt, hL⟩ := id h
  have hlen := writeBits_length B lsb x m (msb - lsb + 1)
  refine eq_of_logicalBit_eq (m := m) (by rw [storeBoxes_length, hlen]) (by rwa [hlen]) fun p hp => ?_
  rw [hlen] at hp
  rw [logicalBit_storeBoxes x h (by omega) hp, logicalBit_writeBits x hL (by omega) hp]
  have hiff : (p / 8 < lsb / 8 + (msb / 8 + 1 - lsb / 8) ∧ lsb ≤ p ∧ p ≤ msb) ↔
      (lsb ≤ p ∧ p < lsb + (msb - lsb + 1)) := by omega
  rw [if_congr hiff rfl rfl]

end

/-- Settles O32: the checks are the same, and past them the boxes write the field's bits and no others. -/
theorem byteWalkWritesTheField : Obligations.ByteWalkWritesTheField := by
  intro B msb lsb x m
  cases h : checkField B.length msb lsb m with
  | some e => rw [fieldSetWalk, fieldSetF, h]
  | none =>
    have hlegal := (checkField_eq_none _ _ _ _).mp h
    rw [fieldSetF_legal B msb lsb x m hlegal, fieldSetWalk, h, storeBoxes_eq_writeBits x hlegal]

end Sys2Proof.Machine

/-! SUPPORT. Proofs about fields beside each other (41_field_accessor R149): the field round trip, the 32-bit
pseudo-instructions (30_encoding R102) and the transport header (45_chunk_splitter R266, R267). -/

namespace Sys2Proof.Machine

/-! ### Disjoint fields -/

/-- Writing one field leaves what a disjoint one reads (41_field_accessor R149). -/
theorem readBits_writeBits_of_disjoint {B : Buffer} {lsb w lsb' w' : Nat} {m : LayoutMode} (x : U64)
    (hL : (m.getLsbD 1 = true ∨ m.getLsbD 2 = true) → B.length % 4 = 0) (hw : lsb + w ≤ 8 * B.length)
    (hw' : lsb' + w' ≤ 8 * B.length) (hdis : lsb + w ≤ lsb' ∨ lsb' + w' ≤ lsb) :
    readBits (writeBits B lsb x m w) lsb' m w' = readBits B lsb' m w' := by
  refine Nat.eq_of_testBit_eq fun j => ?_
  rw [testBit_readBits_eq, testBit_readBits_eq]
  by_cases hj : j < w'
  · rw [logicalBit_writeBits x hL hw (by omega), if_neg (by omega)]
  · simp [hj]

/-- The same through the accessor (41_field_accessor R149). -/
theorem fieldGetF_writeBits_of_disjoint {B : Buffer} {msb lsb msb' lsb' : Nat} {m : LayoutMode} (x : U64)
    (h : FieldLegal B.length msb lsb m) (h' : FieldLegal B.length msb' lsb' m) (hdis : msb < lsb' ∨ msb' < lsb) :
    fieldGetF (writeBits B lsb x m (msb - lsb + 1)) msb' lsb' m = fieldGetF B msb' lsb' m := by
  obtain ⟨hle, -, hlt, hL⟩ := h
  obtain ⟨hle', -, hlt', -⟩ := id h'
  rw [fieldGetF_legal _ _ _ _ (by rwa [writeBits_length]), fieldGetF_legal _ _ _ _ h',
    readBits_writeBits_of_disjoint x hL (by omega) (by omega) (by omega)]

/-- Reading back a field that was written gives the low bits of its value (41_field_accessor R149). -/
theorem fieldGetF_writeBits {B : Buffer} {msb lsb : Nat} {m : LayoutMode} (x : U64)
    (h : FieldLegal B.length msb lsb m) :
    fieldGetF (writeBits B lsb x m (msb - lsb + 1)) msb lsb m =
      .ok (BitVec.ofNat 64 (x.toNat % 2 ^ (msb - lsb + 1))) := by
  obtain ⟨hle, -, hlt, hL⟩ := id h
  rw [fieldGetF_legal _ _ _ _ (by rwa [writeBits_length]), readBits_writeBits x hL (by omega)]

/-- A value that fits its width is its own low bits. -/
theorem ofNat_mod_of_fits {x : U64} {w : Nat} (h : x.toNat < 2 ^ w) : BitVec.ofNat 64 (x.toNat % 2 ^ w) = x := by
  rw [Nat.mod_eq_of_lt h, BitVec.ofNat_toNat, BitVec.setWidth_eq]

/-- Settles O33: the written field reads as its value's low bits, any disjoint one as before. -/
theorem fieldRoundTrip : Obligations.FieldRoundTrip := by
  intro B msb lsb x m h
  refine ⟨_, _, fieldSetF_legal B msb lsb x m h, fun hx => ?_, fieldGetF_writeBits x h,
    fun msb' lsb' h' hdis => fieldGetF_writeBits_of_disjoint x h h' hdis⟩
  rw [fieldGetF_writeBits x h, ofNat_mod_of_fits hx]

/-! ### The 32-bit pseudo-instructions -/

/-- Issuing a command runs it on its slots (00_scope R3, 30_encoding R101). -/
theorem issue_commandOf (i : Instr) (sl : Slots) (s : State) :
    issue (commandOf i sl) s = exec i { s with slots := sl } :=
  step_of_decode_ok (c := commandOf i sl) rfl (decode_encode i)

/-- The state an OK ending leaves, and the `OUT` the host finds in it (30_encoding R102). -/
theorem endsOk_eq_next (s : State) (w : Nat) (r : Results) :
    ∃ t, endsOk s w r = .next t ∧ t.cfg = s.cfg ∧ t.layout = s.layout ∧ t.layoutSet = s.layoutSet ∧
      lastOut t = r.out :=
  ⟨_, rfl, rfl, rfl, rfl, rfl⟩

section
variable {s : State} {B : Buffer} (h : ReadyToRead s) (hB : s.slots.inBuf = B) (hlen : B.length = 4)
  (hmsb : s.slots.a0.toNat = 31) (hlsb : s.slots.a1.toNat = 0)
include h hB hlen hmsb hlsb

/-- FIELD_SET of the one 32-bit field of a 4-byte buffer (41_field_accessor R151). -/
theorem exec_fieldSet_four :
    ∃ w, exec .fieldSet s =
      endsOk s w { Results.empty with out := writeBits B 0 s.slots.a2 s.layout 32 } := by
  have hlegal : FieldLegal s.slots.inBuf.length s.slots.a0.toNat s.slots.a1.toNat s.layout := by
    rw [hB, hlen, hmsb, hlsb]
    exact fieldLegal_four 31 0 s.layout (by decide) (by decide)
  have hexec := exec_fieldSet_legal h hlegal
  rw [hB, hmsb, hlsb] at hexec
  exact ⟨_, hexec⟩

/-- FIELD_GET of the one 32-bit field of a 4-byte buffer (41_field_accessor R150). -/
theorem exec_fieldGet_four :
    exec .fieldGet s =
      endsOk s 0 { Results.empty with r0 := BitVec.ofNat 64 (readBits B 0 s.layout 32) } := by
  have hlegal : FieldLegal s.slots.inBuf.length s.slots.a0.toNat s.slots.a1.toNat s.layout := by
    rw [hB, hlen, hmsb, hlsb]
    exact fieldLegal_four 31 0 s.layout (by decide) (by decide)
  rw [exec_fieldGet_legal h hlegal, hB, hmsb, hlsb]

end

/-- STORE32 writes the one 32-bit field of a zero buffer and keeps the configuration and the mode (30_encoding R102). -/
theorem issue_pseudoStore32 {s : State} (x : U64) (h : ConfigOk s ∧ ModeSet s ∧ SizeFits s.cfg 4) :
    ∃ t, issue (pseudoStore32 x) s = .next t ∧ t.cfg = s.cfg ∧ t.layout = s.layout ∧ t.layoutSet = s.layoutSet ∧
      lastOut t = writeBits (zeros 4) 0 x s.layout 32 := by
  let u : State := { s with slots := { Slots.empty with inBuf := zeros 4, a0 := 31, a1 := 0, a2 := x } }
  have hready : ReadyToRead u := h
  obtain ⟨w, hexec⟩ := exec_fieldSet_four (B := zeros 4) hready rfl rfl rfl rfl
  obtain ⟨t, ht, hcfg, hlayout, hset, hout⟩ := endsOk_eq_next u w
    { Results.empty with out := writeBits (zeros 4) 0 x s.layout 32 }
  refine ⟨t, ((issue_commandOf .fieldSet u.slots s).trans hexec).trans ht, hcfg, hlayout, hset, ?_⟩
  rw [hout]

/-- LOAD32 reads the one 32-bit field of a 4-byte buffer (30_encoding R102). -/
theorem issue_pseudoLoad32 {s : State} {S : Buffer} (h : ConfigOk s ∧ ModeSet s ∧ SizeFits s.cfg 4)
    (hS : S.length = 4) :
    ∃ t, issue (pseudoLoad32 S) s = .next t ∧
      t.resp = some ⟨0, { Results.empty with r0 := BitVec.ofNat 64 (readBits S 0 s.layout 32) }⟩ := by
  let u : State := { s with slots := { Slots.empty with inBuf := S, a0 := 31, a1 := 0 } }
  obtain ⟨hc, hmode, hfits⟩ := h
  have hready : ReadyToRead u := ⟨hc, hmode, fun k hk => hS.trans_le (hfits k hk)⟩
  exact ⟨_, (issue_commandOf .fieldGet u.slots s).trans (exec_fieldGet_four hready rfl hS rfl rfl), rfl⟩

/-- Settles O34: what STORE32 wrote LOAD32 reads. -/
theorem load32ReadsWhatStore32Wrote : Obligations.Load32ReadsWhatStore32Wrote := by
  intro s x hc hmode hfits hx
  obtain ⟨t, hstore, hcfg, hlayout, hset, hout⟩ := issue_pseudoStore32 x ⟨hc, hmode, hfits⟩
  have hready : ConfigOk t ∧ ModeSet t ∧ SizeFits t.cfg 4 := by
    rw [ConfigOk, ModeSet, hcfg, hset]
    exact ⟨hc, hmode, hfits⟩
  have hlen : (lastOut t).length = 4 := by
    rw [hout, writeBits_length]
    rfl
  have hread : readBits (lastOut t) 0 t.layout 32 = x.toNat % 2 ^ 32 := by
    rw [hout, hlayout]
    exact readBits_writeBits x (fun _ => rfl) (Nat.le_refl 32)
  obtain ⟨u, hload, hresp⟩ := issue_pseudoLoad32 hready hlen
  rw [hread, ofNat_mod_of_fits hx] at hresp
  exact ⟨t, u, _, hstore, hload, hresp, rfl, rfl⟩

/-! ### The transport header -/

/-- The bits read are those of the low part and, above them, those of the rest. -/
theorem readBits_add (B : Buffer) (lsb : Nat) (m : LayoutMode) (w w' : Nat) :
    readBits B lsb m (w + w') = readBits B lsb m w + 2 ^ w * readBits B (lsb + w) m w' := by
  induction w' with
  | zero => simp [readBits]
  | succ w' ih =>
    rw [← Nat.add_assoc, readBits, ih, readBits, Nat.pow_add, Nat.mul_add, Nat.add_assoc lsb]
    ring

theorem readBits_zeros (n lsb : Nat) (m : LayoutMode) (w : Nat) : readBits (zeros n) lsb m w = 0 := by
  refine Nat.eq_of_testBit_eq fun j => ?_
  rw [testBit_readBits_eq, logicalBit_zeros, Bool.and_false, Nat.zero_testBit]

theorem length_msghdrBytes (d : Direction) (addr count : U64) (m : LayoutMode) :
    (msghdrBytes d addr count m).length = 4 := by
  rw [msghdrBytes, writeBits_length, writeBits_length, writeBits_length]
  rfl

/-- The header as a number: its four parts side by side (45_chunk_splitter R267). -/
theorem readBits_msghdrBytes (d : Direction) (addr count : U64) (m : LayoutMode) :
    readBits (msghdrBytes d addr count m) 0 m 32 =
      addr.toNat % 2 ^ 21 * 2 ^ 4 + (headerCount d count).toNat % 2 ^ 6 * 2 ^ 25 + d.code * 2 ^ 31 := by
  have hother {B : Buffer} {lsb w lsb' w' : Nat} (x : U64) (hB : B.length = 4) (hw : lsb + w ≤ 32)
      (hw' : lsb' + w' ≤ 32) (hdis : lsb + w ≤ lsb' ∨ lsb' + w' ≤ lsb) :
      readBits (writeBits B lsb x m w) lsb' m w' = readBits B lsb' m w' :=
    readBits_writeBits_of_disjoint x (fun _ => by rw [hB]) (by omega) (by omega) hdis
  have hsame {B : Buffer} {lsb w : Nat} (x : U64) (hB : B.length = 4) (hw : lsb + w ≤ 32) :
      readBits (writeBits B lsb x m w) lsb m w = x.toNat % 2 ^ w :=
    readBits_writeBits x (fun _ => by rw [hB]) (by omega)
  have hcode : (BitVec.ofNat 64 d.code).toNat % 2 ^ 1 = d.code := by
    cases d <;> rfl
  have hlow : readBits (msghdrBytes d addr count m) 0 m 4 = 0 := by
    rw [msghdrBytes, hother, hother, hother, readBits_zeros] <;> simp
  have haddr : readBits (msghdrBytes d addr count m) 4 m 21 = addr.toNat % 2 ^ 21 := by
    rw [msghdrBytes, hsame] <;> simp
  have hcount : readBits (msghdrBytes d addr count m) 25 m 6 = (headerCount d count).toNat % 2 ^ 6 := by
    rw [msghdrBytes, hother, hsame] <;> simp
  have hdir : readBits (msghdrBytes d addr count m) 31 m 1 = d.code := by
    rw [msghdrBytes, hother, hother, hsame, hcode] <;> simp
  rw [readBits_add _ 0 m 4 28, readBits_add _ 4 m 21 7, readBits_add _ 25 m 6 1, hlow, haddr, hcount, hdir]
  omega

theorem headerCount_toNat (d : Direction) (count : U64) :
    (headerCount d count).toNat % 2 ^ 6 = if d = .read then count.toNat % 2 ^ 6 else 0 := by
  cases d <;> rfl

theorem code_eq_ite (d : Direction) : d.code = if d = .write then 1 else 0 := by
  cases d <;> rfl

/-- The header read back as one 32-bit value (45_chunk_splitter R267). -/
theorem get32F_msghdrBytes (d : Direction) (addr count : U64) (m : LayoutMode) :
    get32F (msghdrBytes d addr count m) m = .ok (BitVec.ofNat 32
      ((if d = .write then 1 else 0) * 2 ^ 31 + (if d = .read then count.toNat % 2 ^ 6 else 0) * 2 ^ 25 +
        addr.toNat % 2 ^ 21 * 2 ^ 4)) := by
  have hlegal : FieldLegal (msghdrBytes d addr count m).length 31 0 m :=
    length_msghdrBytes d addr count m ▸ fieldLegal_four 31 0 m (by decide) (by decide)
  have hlt := readBits_lt (msghdrBytes d addr count m) 0 m 32
  have hread := readBits_msghdrBytes d addr count m
  have hsum : (BitVec.ofNat 64 (readBits (msghdrBytes d addr count m) 0 m 32)).toNat =
      d.code * 2 ^ 31 + (headerCount d count).toNat % 2 ^ 6 * 2 ^ 25 + addr.toNat % 2 ^ 21 * 2 ^ 4 := by
    rw [BitVec.toNat_ofNat, Nat.mod_eq_of_lt (by omega), hread]
    omega
  rw [get32F, fieldGetF_legal _ _ _ _ hlegal, ← headerCount_toNat, ← code_eq_ite, ← hsum]

/-- The truncation flag of a header: the address, or the count of a read, needs more bits than its field has
(45_chunk_splitter R267). -/
theorem msghdr_truncates_iff (d : Direction) (addr count : U64) :
    (truncates 1 (BitVec.ofNat 64 d.code) || truncates 6 (headerCount d count) || truncates 21 addr) = true ↔
      2 ^ 21 ≤ addr.toNat ∨ (d = .read ∧ 2 ^ 6 ≤ count.toNat) := by
  cases d <;> simp only [headerCount, Direction.code] <;> simp [truncates, or_comm]

/-- Settles O56: past the mode check the three fields are written and the header reads back as their sum. -/
theorem msghdrBuildsTheHeader : Obligations.MsghdrBuildsTheHeader := by
  intro d s hc
  refine ⟨fun hs => exec_of_mode_unset (.msghdr d) s hc hs rfl rfl, fun hmode => ?_⟩
  refine ⟨msghdrBytes d s.slots.a0 s.slots.a1 s.layout, ?_, length_msghdrBytes _ _ _ _, get32F_msghdrBytes _ _ _ _⟩
  rw [exec_eq_answer (.msghdr d) s nofun, replyFor, msghdrReply, withMode_set s _ hmode, msghdrF_eq, replyOf_ok,
    doneOut, answer_done hc, ← if_congr (msghdr_truncates_iff d s.slots.a0 s.slots.a1) rfl rfl]
  dsimp only [wordAddressOperand, readCountOperand]
  generalize (truncates 1 _ || _ || _) = trunc
  cases trunc <;> rfl

end Sys2Proof.Machine

/-! SUPPORT. Proofs about the CRC-32 (42_crc32 R177, R179): bit-reversed, the block's CRC is the reflected CRC of the
bytes that the mode presents, and a single changed byte changes that CRC. -/

namespace Sys2Proof.Machine

/-! ### Bit reversal -/

/-- A bit of a reversed word is the bit as far from the other end (00_scope R17). -/
theorem getLsbD_bitrev {n : Nat} (v : BitVec n) (i : Nat) :
    (bitrev v).getLsbD i = (decide (i < n) && v.getLsbD (n - 1 - i)) := by
  rw [bitrev, BitVec.getLsbD_reverse, BitVec.getMsbD_eq_getLsbD]

theorem bitrev_bitrev {n : Nat} (v : BitVec n) : bitrev (bitrev v) = v := BitVec.reverse_reverse_eq

theorem bitrev_xor {n : Nat} (v u : BitVec n) : bitrev (v ^^^ u) = bitrev v ^^^ bitrev u := by
  refine BitVec.eq_of_getLsbD_eq fun i hi => ?_
  simp only [getLsbD_bitrev, BitVec.getLsbD_xor, hi, decide_true, Bool.true_and]

/-- Reversing turns a shift left by one into a shift right by one. -/
theorem bitrev_shiftLeft_one (v : U32) : bitrev (v <<< 1) = bitrev v >>> 1 := by
  refine BitVec.eq_of_getLsbD_eq fun i hi => ?_
  rw [getLsbD_bitrev, BitVec.getLsbD_shiftLeft, BitVec.getLsbD_ushiftRight, getLsbD_bitrev]
  by_cases hlast : 1 + i < 32
  · have hpos : 32 - 1 - i - 1 = 32 - 1 - (1 + i) := by omega
    have hge : ¬ 32 - 1 - i < 1 := by omega
    have hlt : 32 - 1 - i < 32 := by omega
    simp [hi, hlast, hpos, hge, hlt]
  · have hzero : 32 - 1 - i < 1 := by omega
    simp [hlast, hzero]

/-- A reversed byte at the top of a word is, reversed, the byte at the bottom. -/
theorem bitrev_top_byte (b : Byte) : bitrev ((bitrev b).setWidth 32 <<< 24) = b.setWidth 32 := by
  refine BitVec.eq_of_getLsbD_eq fun i hi => ?_
  rw [getLsbD_bitrev, BitVec.getLsbD_shiftLeft, BitVec.getLsbD_setWidth, getLsbD_bitrev, BitVec.getLsbD_setWidth]
  by_cases h8 : i < 8
  · have hlt : 32 - 1 - i < 32 := by omega
    have hge : ¬ 32 - 1 - i < 24 := by omega
    have hin : 32 - 1 - i - 24 < 32 ∧ 32 - 1 - i - 24 < 8 := by omega
    have hpos : 8 - 1 - (32 - 1 - i - 24) = i := by omega
    rw [hpos, decide_eq_true hi, decide_eq_true hlt, decide_eq_false hge, decide_eq_true hin.1, decide_eq_true hin.2]
    rfl
  · have hlow : 32 - 1 - i < 24 := by omega
    rw [decide_eq_true hlow, BitVec.getLsbD_of_ge b i (by omega)]
    simp

/-! ### The block's CRC, reversed -/

/-- One step of the block's CRC is, reversed, one step of the reflected CRC (42_crc32 R171, R177). -/
theorem bitrev_crcStep (c : U32) : bitrev (crcStep c) = reflectedStep (bitrev c) := by
  have htop : (bitrev c).getLsbD 0 = c.getLsbD 31 := by
    rw [getLsbD_bitrev]
    rfl
  have hpoly : bitrev Config.crcPoly = 0xEDB88320 := by decide +kernel
  rw [crcStep, reflectedStep, htop, apply_ite bitrev, bitrev_xor, bitrev_shiftLeft_one, hpoly]

/-- One byte into the block's CRC is, reversed, that byte into the reflected CRC (42_crc32 R171, R177). -/
theorem bitrev_crcByte (c : U32) (b : Byte) : bitrev (crcByte c b) = reflectedByte (bitrev c) b := by
  simp only [crcByte, crcSteps, bitrev_crcStep, bitrev_xor, bitrev_top_byte, reflectedByte]

theorem bitrev_foldl_crcByte (bs : Buffer) (c : U32) :
    bitrev (bs.foldl crcByte c) = bs.foldl reflectedByte (bitrev c) := by
  induction bs generalizing c with
  | nil => rfl
  | cons b bs ih => rw [List.foldl_cons, List.foldl_cons, ih, bitrev_crcByte]

/-! ### The bytes a mode presents -/

/-- A byte as a mode presents it to the CRC (42_crc32 R177). -/
def presentByte (m : LayoutMode) (b : Byte) : Byte := if mirrorOn m then b.reverse else b

theorem presentByte_eq (m : LayoutMode) : presentByte m = fun b => if m.getLsbD 0 then b.reverse else b := rfl

/-- The physical place of a logical byte in a 4-byte buffer: WREV has no second word to exchange it with
(42_crc32 R177). -/
theorem phys_four (m : LayoutMode) {k : Nat} (hk : k < 4) : phys k 4 m = if bswapOn m then k else 3 - k := by
  unfold phys reverseWords swapInWord
  split <;> split <;> omega

/-- A logical byte of a word is its physical byte as the mode presents it (41_field_accessor R142, R146). -/
theorem extractLsb'_readBits (B : Buffer) (m : LayoutMode) {k : Nat} (hk : k < 4) :
    (BitVec.ofNat 64 (readBits B 0 m 32)).extractLsb' (8 * k) 8 = presentByte m (B.getD (phys k B.length m) 0) := by
  refine BitVec.eq_of_getLsbD_eq fun j hj => ?_
  have hdiv : (0 + (8 * k + j)) / 8 = k := by omega
  have hmod : (0 + (8 * k + j)) % 8 = j := by omega
  have hin : 8 * k + j < 32 := by omega
  rw [BitVec.getLsbD_extractLsb', getLsbD_ofNat_readBits B 0 m (by decide), logicalBit_eq_byteBit, hdiv, hmod,
    decide_eq_true hj, decide_eq_true hin, Bool.true_and, Bool.true_and, bitpos, presentByte]
  split
  · rw [BitVec.getLsbD_reverse, BitVec.getMsbD_eq_getLsbD, decide_eq_true hj, Bool.true_and]
  · rfl

/-- The bytes of a word, low-order byte first, are those the mode presents (42_crc32 R173, R177). -/
theorem wordBytes_readBits (b0 b1 b2 b3 : Byte) (m : LayoutMode) :
    wordBytes (BitVec.ofNat 64 (readBits [b0, b1, b2, b3] 0 m 32)) = crcBytes [b0, b1, b2, b3] m := by
  have hlen : [b0, b1, b2, b3].length = 4 := rfl
  have hbyte {k : Nat} (hk : k < 4) := extractLsb'_readBits [b0, b1, b2, b3] m hk
  simp only [hlen] at hbyte
  have h0 := hbyte (k := 0) (by decide)
  have h1 := hbyte (k := 1) (by decide)
  have h2 := hbyte (k := 2) (by decide)
  have h3 := hbyte (k := 3) (by decide)
  rw [phys_four m (by decide)] at h0 h1 h2 h3
  rw [wordBytes, h0, h1, h2, h3, crcBytes, presentByte_eq, bswapOn]
  cases m.getLsbD 0 <;> cases m.getLsbD 1 <;> rfl

/-- The bytes that a mode presents, word by word (42_crc32 R177). -/
theorem crcBytes_cons_word (b0 b1 b2 b3 : Byte) (rest : Buffer) (m : LayoutMode) :
    crcBytes (b0 :: b1 :: b2 :: b3 :: rest) m = crcBytes [b0, b1, b2, b3] m ++ crcBytes rest m := by
  simp only [crcBytes]
  cases m.getLsbD 0 <;> cases m.getLsbD 1 <;> rfl

/-- The word loop is, reversed, the reflected CRC over the bytes that the mode presents (42_crc32 R177). -/
theorem crcWords_eq (m : LayoutMode) (B : Buffer) (c : U32) (h : B.length % 4 = 0) :
    crcWords m B c = .ok (bitrev ((crcBytes B m).foldl reflectedByte (bitrev c))) := by
  induction B, c using crcWords.induct m with
  | case1 b0 b1 b2 b3 rest c e he =>
    cases (fieldGetF_legal [b0, b1, b2, b3] 31 0 m (fieldLegal_four 31 0 m (by decide) (by decide))).symm.trans he
  | case2 b0 b1 b2 b3 rest c w hw ih =>
    cases (fieldGetF_legal [b0, b1, b2, b3] 31 0 m (fieldLegal_four 31 0 m (by decide) (by decide))).symm.trans hw
    simp only [List.length_cons] at h
    simp only [crcWords, hw]
    rw [ih (by omega), crcBytes_cons_word, List.foldl_append, ← wordBytes_readBits, crcWord, bitrev_foldl_crcByte]
  | case3 B c hno =>
    have hnil : B = [] := by
      match B, h, hno with
      | [], _, _ => rfl
      | b0 :: b1 :: b2 :: b3 :: rest, _, hno => exact (hno b0 b1 b2 b3 rest rfl).elim
    subst hnil
    have hbytes : crcBytes [] m = [] := by
      simp only [crcBytes]
      cases m.getLsbD 0 <;> cases m.getLsbD 1 <;> rfl
    rw [hbytes, List.foldl_nil, bitrev_bitrev]
    rfl

/-- `CRC32_f` of whole words is the standard CRC-32 of the bytes that the mode presents (42_crc32 R177). -/
theorem crc32F_eq_standardCrc {B : Buffer} (m : LayoutMode) (h : B.length % 4 = 0) :
    crc32F B m = .ok (standardCrc (crcBytes B m)) := by
  have hseed : bitrev Config.crcSeed = 0xFFFFFFFF := by decide +kernel
  have hfinal : bitrev (0xFFFFFFFF : U32) = 0xFFFFFFFF := by decide +kernel
  rw [crc32F, if_neg (not_not_intro h), crcWords_eq m B _ h, hseed]
  dsimp only
  rw [bitrev_xor, bitrev_bitrev, hfinal, standardCrc]

/-- Settles O35: `CRC32_f` is the standard CRC of the presented bytes, and the check value is computed. -/
theorem crcIsTheStandardCrc : Obligations.CrcIsTheStandardCrc := by
  refine ⟨fun s h hlen => ?_, by decide +kernel⟩
  rw [exec_crc32_of_crc32F_ok h (crc32F_eq_standardCrc s.layout hlen), BitVec.ofNat_toNat]

/-! ### One changed byte -/

/-- The polynomial's top bit marks which branch a step took, so a step loses nothing (42_crc32 R179). -/
theorem reflectedStep_injective : Function.Injective reflectedStep := by
  have htop (c : U32) : (reflectedStep c).getLsbD 31 = c.getLsbD 0 := by
    have hshift : (c >>> 1).getLsbD 31 = false := by
      rw [BitVec.getLsbD_ushiftRight, BitVec.getLsbD_of_ge c _ (by decide)]
    unfold reflectedStep
    split
    next h =>
      rw [BitVec.getLsbD_xor, hshift, h]
      rfl
    next h => rw [hshift, Bool.eq_false_iff.mpr h]
  intro c d h
  have h0 : c.getLsbD 0 = d.getLsbD 0 := by rw [← htop, h, htop]
  have hshift : c >>> 1 = d >>> 1 := by
    rw [reflectedStep, reflectedStep, h0] at h
    split at h
    · exact (BitVec.xor_left_inj _).mp h
    · exact h
  refine BitVec.eq_of_getLsbD_eq fun i _ => ?_
  cases i with
  | zero => exact h0
  | succ i =>
    have hbit := congrArg (fun v => v.getLsbD i) hshift
    simpa only [BitVec.getLsbD_ushiftRight, Nat.add_comm 1 i] using hbit

/-- The eight steps of a byte lose nothing (42_crc32 R179). -/
theorem reflectedByte_eq_iff {c d : U32} {b b' : Byte} :
    reflectedByte c b = reflectedByte d b' ↔ c ^^^ b.setWidth 32 = d ^^^ b'.setWidth 32 := by
  simp only [reflectedByte, reflectedStep_injective.eq_iff]

theorem foldl_reflectedByte_injective (bs : Buffer) : Function.Injective (bs.foldl reflectedByte) := by
  induction bs with
  | nil => exact Function.injective_id
  | cons b bs ih => exact fun c d h => (BitVec.xor_left_inj _).mp (reflectedByte_eq_iff.mp (ih h))

theorem setWidth_injective : Function.Injective (BitVec.setWidth 32 : Byte → U32) := by
  intro b b' h
  refine BitVec.eq_of_getLsbD_eq fun i hi => ?_
  have hbit := congrArg (fun v => v.getLsbD i) h
  simpa only [BitVec.getLsbD_setWidth, decide_eq_true (Nat.lt_trans hi (by decide : 8 < 32)), Bool.true_and] using hbit

/-- Another byte at one place gives another CRC: the state differs behind it, and no later byte brings the two together
(42_crc32 R179). -/
theorem foldl_reflectedByte_set_ne {bs : Buffer} {a : Nat} {v : Byte} (c : U32) (ha : a < bs.length) (hv : bs[a] ≠ v) :
    bs.foldl reflectedByte c ≠ (bs.set a v).foldl reflectedByte c := by
  induction bs generalizing a c with
  | nil => exact absurd ha (Nat.not_lt_zero a)
  | cons b bs ih =>
    cases a with
    | zero =>
      intro h
      have hbyte := reflectedByte_eq_iff.mp (foldl_reflectedByte_injective bs h)
      exact hv (setWidth_injective ((BitVec.xor_right_inj c).mp hbyte))
    | succ a => exact ih (reflectedByte c b) (Nat.lt_of_succ_lt_succ ha) hv

theorem standardCrc_set_ne {bs : Buffer} {a : Nat} {v : Byte} (ha : a < bs.length) (hv : bs[a] ≠ v) :
    standardCrc bs ≠ standardCrc (bs.set a v) := fun h =>
  foldl_reflectedByte_set_ne _ ha hv ((BitVec.xor_left_inj _).mp h)

/-! ### One flipped bit -/

@[simp] theorem reverseEachWord_length (B : Buffer) : (reverseEachWord B).length = B.length := by
  induction B using reverseEachWord.induct with
  | case1 b0 b1 b2 b3 rest ih => simp [reverseEachWord, ih]
  | case2 B hno => rw [reverseEachWord]; exact hno

/-- The place of a byte after each word was reversed. -/
def placeInWord (a : Nat) : Nat := 4 * (a / 4) + (3 - a % 4)

/-- A byte replaced before the words are reversed is replaced at its place after it (42_crc32 R177). -/
theorem reverseEachWord_set {B : Buffer} {a : Nat} (v : Byte) (h : B.length % 4 = 0) :
    reverseEachWord (B.set a v) = (reverseEachWord B).set (placeInWord a) v := by
  induction B using reverseEachWord.induct generalizing a with
  | case1 b0 b1 b2 b3 rest ih =>
    simp only [List.length_cons] at h
    match a with
    | 0 | 1 | 2 | 3 => rfl
    | a + 4 =>
      have hplace : placeInWord (a + 4) = placeInWord a + 4 := by
        unfold placeInWord
        omega
      rw [hplace]
      simp only [List.set_cons_succ, reverseEachWord, ih (a := a) (by omega)]
  | case2 B hno =>
    match B, h, hno with
    | [], _, _ => rfl
    | b0 :: b1 :: b2 :: b3 :: rest, _, hno => exact (hno b0 b1 b2 b3 rest rfl).elim

/-- The place of a byte among those that a mode presents (42_crc32 R177). -/
def crcPlace (m : LayoutMode) (a : Nat) : Nat := if bswapOn m then a else placeInWord a

/-- A byte replaced in the buffer is replaced at its place among those presented (42_crc32 R177). -/
theorem crcBytes_set {B : Buffer} (m : LayoutMode) {a : Nat} (v : Byte) (h : B.length % 4 = 0) :
    crcBytes (B.set a v) m = (crcBytes B m).set (crcPlace m a) (presentByte m v) := by
  rw [crcBytes, crcBytes, crcPlace, presentByte_eq, bswapOn]
  cases m.getLsbD 0 <;> cases m.getLsbD 1
  · exact reverseEachWord_set v h
  · rfl
  · exact (congrArg reverseEachWord List.map_set).trans (reverseEachWord_set _ (by simpa [mirrorEachByte] using h))
  · exact List.map_set

theorem length_crcBytes (B : Buffer) (m : LayoutMode) : (crcBytes B m).length = B.length := by
  simp only [crcBytes, mirrorEachByte]
  cases m.getLsbD 0 <;> cases m.getLsbD 1 <;> simp

theorem presentByte_injective (m : LayoutMode) : Function.Injective (presentByte m) := by
  intro b b' h
  unfold presentByte at h
  split at h
  · exact (bitrev_bitrev b).symm.trans ((congrArg BitVec.reverse h).trans (bitrev_bitrev b'))
  · exact h

/-- Another byte in the buffer changes its CRC (42_crc32 R179). -/
theorem standardCrc_crcBytes_set_ne {B : Buffer} (m : LayoutMode) {a : Nat} {v : Byte} (h : B.length % 4 = 0)
    (ha : a < B.length) (hv : B[a] ≠ v) : standardCrc (crcBytes B m) ≠ standardCrc (crcBytes (B.set a v) m) := by
  have hplace : crcPlace m a < (crcBytes B m).length := by
    rw [length_crcBytes, crcPlace, placeInWord]
    split <;> omega
  have hsame : (crcBytes B m).set (crcPlace m a) (presentByte m B[a]) = crcBytes B m := by
    rw [← crcBytes_set m _ h, List.set_getElem_self]
  have hold : (crcBytes B m)[crcPlace m a] = presentByte m B[a] := by
    have hget := List.getElem_set_self (l := crcBytes B m) (a := presentByte m B[a]) (by simpa using hplace)
    simpa only [hsame] using hget
  rw [crcBytes_set m v h]
  exact standardCrc_set_ne hplace (hold ▸ fun heq => hv (presentByte_injective m heq))

/-- Settles O38: the flipped bit changes its byte, and the changed byte the CRC. -/
theorem oneFlippedBitChangesTheCrc : Obligations.OneFlippedBitChangesTheCrc := by
  intro B m a j hlen ha hj
  have hflip : B[a] ≠ byteWithBit (B.getD a 0) j (!bufBit B (a, j)) := by
    intro h
    have hbit := congrArg (fun b => b.getLsbD j) h
    simp [getLsbD_byteWithBit _ j _ j hj, bufBit, ha] at hbit
  have hlen' : (setBufBit B (a, j) (!bufBit B (a, j))).length % 4 = 0 := by rwa [setBufBit_length]
  exact ⟨_, _, crc32F_eq_standardCrc m hlen, crc32F_eq_standardCrc m hlen', standardCrc_crcBytes_set_ne m hlen ha hflip⟩

end Sys2Proof.Machine

/-! SUPPORT. Proofs about the entry round trip (43_entry_codec R194): an encoded entry decodes to its record with every
slot reduced to its field's width, and a decoded entry encodes to its declared bits. -/

namespace Sys2Proof.Machine

section
variable {f : TableForm} (hf : f.wellFormed = true) (m : LayoutMode)
include hf

/-- A field of an encoded entry reads as its slot's low bits (43_entry_codec R194). -/
theorem fieldValue_entry {r : Record} (hr : r.length = f.schema.length) {d : FieldDesc} {x : U64}
    (h : (d, x) ∈ f.schema.zip r) :
    fieldValue (writeFields m (f.schema.zip r) (zeros f.size)) m d = BitVec.ofNat 64 (x.toNat % 2 ^ d.width) := by
  obtain ⟨-, -, hlegal⟩ := wellFormed_fields f hf m
  obtain ⟨k, hk⟩ := List.getElem?_of_mem h
  obtain ⟨hd, hx⟩ := List.getElem?_zip_eq_some.mp hk
  have hld : FieldLegal (writeFields m (f.schema.zip r) (zeros f.size)).length d.msb d.lsb m := by
    rw [writeFields_length, List.length_replicate]
    exact hlegal d (List.mem_of_getElem? hd)
  refine BitVec.eq_of_getLsbD_eq fun j hj => ?_
  rw [getLsbD_fieldValue hld, BitVec.getLsbD_ofNat, Nat.testBit_mod_two_pow, BitVec.testBit_toNat, decide_eq_true hj,
    Bool.true_and]
  by_cases hin : j ≤ d.msb - d.lsb
  · have hw : j < d.width := Nat.lt_succ_of_le hin
    rw [logicalBit_entry_field hf m hr hd hx hin, decide_eq_true hin, decide_eq_true hw]
  · have hw : ¬ j < d.width := fun h => hin (Nat.le_of_lt_succ h)
    rw [decide_eq_false hin, decide_eq_false hw, Bool.false_and, Bool.false_and]

/-- The fields of an encoded entry read as its record with every slot reduced (43_entry_codec R194). -/
theorem map_fieldValue_entry {r : Record} (hr : r.length = f.schema.length) :
    f.schema.map (fieldValue (writeFields m (f.schema.zip r) (zeros f.size)) m) = maskRecord f r := by
  rw [maskRecord]
  conv_lhs => rw [← List.map_fst_zip hr.ge, List.map_map, List.map_fst_zip hr.ge]
  exact List.map_congr_left fun p hp => fieldValue_entry hf m hr hp

/-- An encoded entry decodes to its record with every slot reduced (43_entry_codec R194). -/
theorem entryDecodeF_entry {r : Record} (hr : r.length = f.schema.length) :
    entryDecodeF f (writeFields m (f.schema.zip r) (zeros f.size)) m = .ok (maskRecord f r) := by
  have hlen : (writeFields m (f.schema.zip r) (zeros f.size)).length = f.size := by
    rw [writeFields_length, List.length_replicate]
  rw [entryDecodeF_eq m hf hlen, map_fieldValue_entry hf m hr]

end

/-- A record that fits its fields is its own reduction (43_entry_codec R194). -/
theorem maskRecord_of_fits {f : TableForm} {r : Record} (hr : r.length = f.schema.length)
    (h : recordExceeds f r = false) : maskRecord f r = r := by
  conv_rhs => rw [← List.map_snd_zip hr.le]
  refine List.map_congr_left fun p hp => ofNat_mod_of_fits ?_
  have hfits := List.any_eq_false.mp h p hp
  simpa [slotExceeds] using hfits

/-- The value of a field does not exceed it: it is zero-extended (41_field_accessor R146). -/
theorem recordExceeds_decoded (f : TableForm) (E : Buffer) (m : LayoutMode) :
    recordExceeds f (f.schema.map (fieldValue E m)) = false := by
  rw [recordExceeds, ← List.map_prod_left_eq_zip, List.any_map, List.any_eq_false]
  intro d _
  have hlt := readBits_lt E d.lsb m d.width
  have hle : (fieldValue E m d).toNat ≤ readBits E d.lsb m d.width := by
    rw [fieldValue, BitVec.toNat_ofNat]
    exact Nat.mod_le _ _
  simpa [slotExceeds] using Nat.lt_of_le_of_lt hle hlt

/-- An entry decoded and encoded again keeps its declared bits and no other (43_entry_codec R194). -/
theorem logicalBit_reencoded {f : TableForm} (hf : f.wellFormed = true) {E : Buffer} (m : LayoutMode)
    (hE : E.length = f.size) {p : Nat} (hp : p < 8 * f.size) :
    logicalBit (writeFields m (f.schema.zip (f.schema.map (fieldValue E m))) (zeros f.size)) m p =
      (f.schema.any (fun d => decide (d.lsb ≤ p) && decide (p ≤ d.msb)) && logicalBit E m p) := by
  by_cases hdecl : ∃ d ∈ f.schema, d.lsb ≤ p ∧ p ≤ d.msb
  · have hany : f.schema.any (fun d => decide (d.lsb ≤ p) && decide (p ≤ d.msb)) = true := by simpa using hdecl
    obtain ⟨d, hd, hlo, hhi⟩ := hdecl
    obtain ⟨k, hk⟩ := List.getElem?_of_mem hd
    obtain ⟨-, -, hlegal⟩ := wellFormed_fields f hf m
    have hx : (f.schema.map (fieldValue E m))[k]? = some (fieldValue E m d) := by rw [List.getElem?_map, hk]; rfl
    have hj : p - d.lsb ≤ d.msb - d.lsb := by omega
    have hpos : d.lsb + (p - d.lsb) = p := by omega
    have hbit := logicalBit_entry_field hf m (List.length_map _) hk hx hj
    rw [getLsbD_fieldValue (hE ▸ hlegal d hd), decide_eq_true hj, Bool.true_and, hpos] at hbit
    rw [hbit, hany, Bool.true_and]
  · have hany : f.schema.any (fun d => decide (d.lsb ≤ p) && decide (p ≤ d.msb)) = false := by
      simpa using hdecl
    have hout : ∀ d ∈ f.schema, p < d.lsb ∨ d.msb < p := by
      intro d hd
      by_contra hno
      exact hdecl ⟨d, hd, by omega⟩
    rw [logicalBit_entry_undeclared hf m hp hout, hany, Bool.false_and]

/-- Settles O41: encoding writes the fields that decoding reads. -/
theorem entryRoundTrip : Obligations.EntryRoundTrip := by
  intro f m hf
  refine ⟨fun r hr => ⟨_, entryEncodeF_eq m hf hr, entryDecodeF_entry hf m hr, fun hfits => ?_⟩, fun E hE => ?_⟩
  · rw [entryDecodeF_entry hf m hr, maskRecord_of_fits hr hfits]
  · have henc := entryEncodeF_eq m hf (List.length_map (fieldValue E m) (as := f.schema))
    rw [recordExceeds_decoded] at henc
    exact ⟨_, _, entryDecodeF_eq m hf hE, henc, fun p hp => logicalBit_reencoded hf m hE hp⟩

end Sys2Proof.Machine

/-! SUPPORT. Proofs about validation (44_container_framer R240 to R246): CHECK_VALID runs the rules in order and names
the first that fails. -/

namespace Sys2Proof.Machine

section
variable {c : Config} {ts : TableSet} {v : Variant} {rules : List ValidationRule}

/-- No rule fails when all hold (44_container_framer R245). -/
theorem firstFailing_of_all (i : Nat) (h : ∀ r ∈ rules, ruleHolds c ts v r = true) :
    firstFailing c ts v rules i = none := by
  induction rules generalizing i with
  | nil => rfl
  | cons r rules ih =>
    obtain ⟨hr, hrules⟩ := List.forall_mem_cons.mp h
    rw [firstFailing, if_pos hr, ih (i + 1) hrules]

/-- The first rule that fails is named by its place (44_container_framer R245). -/
theorem firstFailing_of_first {k : Nat} (i : Nat) (hk : (rules.map (ruleHolds c ts v))[k]? = some false)
    (hbefore : ∀ b ∈ (rules.map (ruleHolds c ts v)).take k, b = true) :
    firstFailing c ts v rules i = some (i + k) := by
  induction rules generalizing i k with
  | nil => cases hk
  | cons r rules ih =>
    cases k with
    | zero =>
      have hr : ruleHolds c ts v r = false := Option.some.inj hk
      rw [firstFailing, hr]
      rfl
    | succ k =>
      rw [List.map_cons, List.take_succ_cons] at hbefore
      obtain ⟨hr, hrest⟩ := List.forall_mem_cons.mp hbefore
      rw [firstFailing, if_pos hr, ih (i + 1) hk hrest, Nat.add_right_comm, Nat.add_assoc]

end

section
variable {s : State} {v : Variant} (hc : ConfigOk s) (hlegal : TableSetLegal s.cfg v s.slots.tables)
include hc hlegal

/-- CHECK_VALID of a legal table set that meets every condition (44_container_framer R245). -/
theorem exec_checkValid_of_all (h : ∀ b ∈ ruleConditions s.cfg s.slots.tables v, b = true) :
    exec .checkValid s = endsOk s 0 Results.empty := by
  have hnone : firstFailing s.cfg s.slots.tables v (ruleList s.cfg) 1 = none := by
    rw [ruleConditions_eq] at h
    exact firstFailing_of_all 1 fun r hr => h _ (List.mem_map_of_mem hr)
  rw [exec_eq_answer .checkValid s nofun, replyFor, checkValidReply, preflightF_of_legal hc hlegal, replyOf_ok]
  simp only [hnone]
  exact answer_done hc Warn.none _

/-- CHECK_VALID of a legal table set whose condition at place `k` is the first that fails (44_container_framer R245). -/
theorem exec_checkValid_of_first {k : Nat} (hk : (ruleConditions s.cfg s.slots.tables v)[k]? = some false)
    (hbefore : ∀ b ∈ (ruleConditions s.cfg s.slots.tables v).take k, b = true) :
    exec .checkValid s = endsError s 7 (k + 1) 0 := by
  rw [ruleConditions_eq] at hk hbefore
  have hfirst := firstFailing_of_first 1 hk hbefore
  have hbounds := firstFailing_bounds hfirst
  have hextra := extraRules_length_le hc
  rw [length_ruleList] at hbounds
  rw [exec_eq_answer .checkValid s nofun, replyFor, checkValidReply, preflightF_of_legal hc hlegal, replyOf_ok]
  simp only [hfirst]
  rw [answer_of_configOk s _ hc, raising, Reply.response_raise, Nat.add_comm 1 k, Err.subReason, Err.code,
    respWord_eq_responseWord _ (by decide) (by omega)]
  rfl

end

/-- Settles O52: the conditions are the rules in order, and CHECK_VALID names the first that fails. -/
theorem checkValidNamesTheFirstFailingRule : Obligations.CheckValidNamesTheFirstFailingRule :=
  fun _ _ hc hlegal => ⟨exec_checkValid_of_all hc hlegal,
    fun _ hk hbefore => exec_checkValid_of_first hc hlegal hk hbefore⟩

/-- The conditions of `SUB` 1 to 3 hold of an empty schedule (44_container_framer R241). -/
theorem scheduleConditions_of_empty {c : Config} {ts : TableSet} (h : entryCount ts c.roles.schedule = 0) :
    ∀ b ∈ scheduleConditions c ts, b = true := by
  simp [scheduleConditions, h]

/-- Settles O53: a schedule without entry points fails the first condition; an empty one meets the first three, and the
others are given. -/
theorem scheduleAndMinimalSetsAreJudged : Obligations.ScheduleAndMinimalSetsAreJudged := by
  intro s v hc hlegal
  refine ⟨fun hsched hpoints => exec_checkValid_of_first hc hlegal (k := 0) ?_ nofun,
    fun hsched hreq hbudget hextra => exec_checkValid_of_all hc hlegal fun b hb => ?_⟩
  · simp [ruleConditions, scheduleConditions, hsched, hpoints]
  · simp only [ruleConditions, hextra, List.map_nil, List.append_nil, List.mem_append, List.mem_singleton] at hb
    rcases hb with (hb | hb) | rfl
    · exact scheduleConditions_of_empty hsched b hb
    · exact hreq b hb
    · exact hbudget

end Sys2Proof.Machine

/-! SUPPORT. Proofs about what the chunks of SPLIT cover (45_chunk_splitter R264). -/

namespace Sys2Proof.Machine

/-- A slice behind the first bytes continues them. -/
theorem take_append_slice (B : Buffer) (a n : Nat) : B.take a ++ slice B a n = B.take (a + n) :=
  List.take_add.symm

/-- A slice that stops at the end of the buffer is the slice of the full length. -/
theorem slice_min (B : Buffer) (a n : Nat) : slice B a (min n (B.length - a)) = slice B a n := by
  rw [slice, slice, ← List.length_drop, List.take_eq_take_iff, List.length_drop]
  omega

/-- The first `n` chunks of the closed form cover the first `n * mx` bytes (45_chunk_splitter R264). -/
theorem flatMap_chunkSlice_range (B : Buffer) (base mx n : Nat) :
    ((List.range n).map (splitChunk B.length base mx)).flatMap (chunkSlice B) = B.take (n * mx) := by
  induction n with
  | zero => simp
  | succ n ih =>
    have hlast : chunkSlice B (splitChunk B.length base mx n) = slice B (n * mx) mx := slice_min B (n * mx) mx
    rw [List.range_succ, List.map_append, List.flatMap_append, ih, List.map_singleton, List.flatMap_singleton, hlast,
      take_append_slice, Nat.succ_mul]

/-- All chunks of the closed form cover the buffer (45_chunk_splitter R264). -/
theorem flatMap_chunkSlice_chunks (B : Buffer) (base : Nat) {mx : Nat} (hmx : 0 < mx) :
    ((List.range (chunkCount B.length mx)).map (splitChunk B.length base mx)).flatMap (chunkSlice B) = B := by
  have hend : ¬ chunkCount B.length mx * mx < B.length :=
    fun h => Nat.lt_irrefl _ ((lt_chunkCount_iff (chunkCount B.length mx) hmx).mpr h)
  rw [flatMap_chunkSlice_range, List.take_of_length_le (Nat.not_lt.mp hend)]

/-- A chunk of the closed form is not empty and no longer than `mx` (45_chunk_splitter R264). -/
theorem len_of_mem_chunks {N base mx : Nat} (hmx : 0 < mx) :
    ∀ k ∈ (List.range (chunkCount N mx)).map (splitChunk N base mx), 0 < k.len ∧ k.len ≤ mx := by
  intro k hk
  obtain ⟨n, hn, rfl⟩ := mem_splitChunks hmx hk
  exact ⟨Nat.lt_min.mpr ⟨hmx, by omega⟩, Nat.min_le_left _ _⟩

/-- A chunk before another is full, and the next one starts where it ends (45_chunk_splitter R264). -/
theorem chunks_consecutive {N base mx k : Nat} {c d : Chunk} (hmx : 0 < mx)
    (hk : ((List.range (chunkCount N mx)).map (splitChunk N base mx))[k]? = some c)
    (hnext : ((List.range (chunkCount N mx)).map (splitChunk N base mx))[k + 1]? = some d) :
    c.off < d.off ∧ d.off = c.off + c.len ∧ d.addr = c.addr + c.len / 4 := by
  rw [List.getElem?_map, Option.map_eq_some_iff] at hk hnext
  obtain ⟨i, hi, rfl⟩ := hk
  obtain ⟨j, hj, rfl⟩ := hnext
  obtain ⟨-, rfl⟩ : k < chunkCount N mx ∧ k = i := by simpa [List.getElem?_eq_some_iff] using hi
  obtain ⟨hlt, rfl⟩ : k + 1 < chunkCount N mx ∧ k + 1 = j := by simpa [List.getElem?_eq_some_iff] using hj
  have hin := (lt_chunkCount_iff (k + 1) hmx).mp hlt
  rw [Nat.succ_mul] at hin
  have hfull : min mx (N - k * mx) = mx := Nat.min_eq_left (by omega)
  simp only [splitChunk, hfull, Nat.succ_mul]
  exact ⟨Nat.lt_add_of_pos_right hmx, trivial, (Nat.add_assoc _ _ _).symm⟩

theorem chunkCount_ten {mx : Nat} (hmx : 4 ≤ mx) : chunkCount (10 * mx + 3) mx = 11 := by
  rw [chunkCount]
  exact Nat.div_eq_of_lt_le (by omega) (by omega)

/-- The chunks of a SPLIT that ends with OK (45_chunk_splitter R262). -/
theorem splitReply_of_status_zero {s : State} (h : (splitReply s).response.status = 0) :
    ∃ chunks, splitF s.slots.inBuf.length s.slots.a0.toNat s.slots.a1.toNat = .ok chunks ∧
      (splitReply s).response.results.chunks = chunks := by
  unfold splitReply at h ⊢
  rcases withInput_cases s _ with ⟨-, hr⟩ | ⟨-, hr⟩ <;> rw [hr] at h ⊢
  · exact absurd h (status_raise_ne_zero _ _)
  · rcases replyOf_cases (splitF s.slots.inBuf.length (baseOperand s) (maxChunkOperand s)) doneChunks with
      ⟨e, -, hr⟩ | ⟨chunks, hchunks, hr⟩ <;> rw [hr] at h ⊢
    · exact absurd h (status_raise_ne_zero _ _)
    · exact ⟨chunks, hchunks, rfl⟩

/-- Settles O55: the chunks are the closed form, which covers the buffer in order. -/
theorem chunksCoverTheBufferInOrder : Obligations.ChunksCoverTheBufferInOrder := by
  intro s t r h hr h0
  rw [exec_eq_next_of_ne_setmode (i := .split) nofun h] at hr
  cases hr
  obtain ⟨chunks, hsplit, hres⟩ := splitReply_of_status_zero h0
  obtain ⟨hmx, hmod, -, rfl⟩ := splitF_ok hsplit
  have hres' : (replyFor .split s).response.results.chunks = _ := hres
  rw [hres']
  refine ⟨flatMap_chunkSlice_chunks _ _ hmx, len_of_mem_chunks hmx,
    fun k c d hk hnext => chunks_consecutive hmx hk hnext, fun hlen => ?_⟩
  rw [List.length_map, List.length_range, hlen, chunkCount_ten (by omega)]

end Sys2Proof.Machine

/-! SUPPORT. Proofs about PACK (44_container_framer R213 to R215): the image it makes is the layout of R213, of the
length of R214, and how PACK ends with it. -/

namespace Sys2Proof.Machine

/-- A raised error ends the command with its code and the warnings set before it (60_exceptions R296). -/
theorem answer_raise {s : State} {e : Err} (w : Warn) (hc : ConfigOk s) (he : e.code ≠ 7) :
    answer s (.raise w e) = endsError s e.code 0 w.code := by
  have hcode : e.code < 2 ^ 8 := Nat.lt_of_le_of_lt (Err.code_bounds e).2 (by decide)
  rw [answer_of_configOk s _ hc, Reply.response_raise, Err.subReason_eq_zero e he,
    respWord_eq_responseWord _ hcode (by decide)]
  rfl

/-! ### The parts of an image -/

/-- Bytes whose CRC is stored stand before it (44_container_framer R213). -/
theorem withCrc_of_storedCrc {B b : Buffer} {m : LayoutMode} (h : storedCrc B m = .ok b) : withCrc B m = B ++ b := by
  rw [withCrc, h, bufferOr]

section
variable {f : TableForm} (hf : f.wellFormed = true) (m : LayoutMode)
include hf

theorem entryBytes_cons {r : Record} (recs : List Record) (hr : r.length = f.schema.length) :
    entryBytes f m (r :: recs) = writeFields m (f.schema.zip r) (zeros f.size) ++ entryBytes f m recs := by
  rw [entryBytes, List.flatMap_cons, entryEncodeF_eq m hf hr]
  rfl

/-- The entries of a table take `size` bytes each (44_container_framer R214). -/
theorem length_entryBytes {recs : List Record} (h : ∀ r ∈ recs, r.length = f.schema.length) :
    (entryBytes f m recs).length = recs.length * f.size := by
  induction recs with
  | nil => simp [entryBytes]
  | cons r recs ih =>
    obtain ⟨hr, hrecs⟩ := List.forall_mem_cons.mp h
    rw [entryBytes_cons hf m recs hr, List.length_append, writeFields_length, List.length_replicate, ih hrecs,
      List.length_cons, Nat.succ_mul, Nat.add_comm]

/-- They are whole words (44_container_framer R214). -/
theorem length_entryBytes_mod_four {recs : List Record} (h : ∀ r ∈ recs, r.length = f.schema.length) :
    (entryBytes f m recs).length % 4 = 0 := by
  obtain ⟨-, hsize, -⟩ := wellFormed_fields f hf m
  rw [length_entryBytes hf m h, Nat.mul_mod, hsize, Nat.mul_zero, Nat.zero_mod]

/-- The body that PACK makes of a table (44_container_framer R215). -/
theorem packBody_eq {recs : List Record} (h : ∀ r ∈ recs, r.length = f.schema.length) :
    packBody f m recs = .ok (entryBytes f m recs, recs.any (recordExceeds f)) := by
  induction recs with
  | nil => rfl
  | cons r recs ih =>
    obtain ⟨hr, hrecs⟩ := List.forall_mem_cons.mp h
    simp only [packBody, entryEncodeF_eq m hf hr, ih hrecs, entryBytes_cons hf m recs hr, List.any_cons]

end

/-- Some record slot of a table exceeds its field's width (44_container_framer R215). -/
def tableExceeds (v : Variant) (p : TableDesc × List Record) : Bool :=
  match formOf p.1 v with
  | none => false
  | some f => p.2.any (recordExceeds f)

theorem tablesExceed_eq (c : Config) (v : Variant) (ts : TableSet) :
    tablesExceed c v ts = (c.catalog.zip ts.tbl).any (tableExceeds v) := rfl

theorem tableBlock_of_form {v : Variant} {t : TableDesc} {f : TableForm} (hform : formOf t v = some f) (c : Config)
    (m : LayoutMode) {recs : List Record} (hne : recs.length ≠ 0) :
    tableBlock c v m t recs =
      withCrc (bufferOr (hdrF c t.blockId (recs.length * f.size / 4) m)) m ++ withCrc (entryBytes f m recs) m := by
  simp only [tableBlock, hform, if_neg hne]

/-- An empty table emits nothing (44_container_framer R217). -/
theorem tableBlock_nil (c : Config) (v : Variant) (m : LayoutMode) (t : TableDesc) : tableBlock c v m t [] = [] := by
  unfold tableBlock
  split <;> rfl

theorem tableExceeds_nil (v : Variant) (t : TableDesc) : tableExceeds v (t, []) = false := by
  unfold tableExceeds
  split <;> rfl

/-- A header has 8 bytes (44_container_framer R212). -/
theorem length_hdrF {c : Config} (hc : wfConfig c = true) (bid lenw : Nat) (m : LayoutMode) :
    (bufferOr (hdrF c bid lenw m)).length = 8 := by
  obtain ⟨h8, hhdr, hlen⟩ := hdrF_ok c hc bid lenw m
  rw [hhdr, bufferOr, hlen]

theorem length_u32F (x : U32) (m : LayoutMode) : (bufferOr (u32F x m)).length = 4 := by
  obtain ⟨b, hb, hlen⟩ := u32F_ok x m
  rw [hb, bufferOr, hlen]

section
variable {c : Config} (hc : wfConfig c = true) (v : Variant) (m : LayoutMode)
include hc

/-- The block that PACK makes of a table (44_container_framer R215). -/
theorem packTable_eq {t : TableDesc} {f : TableForm} (ht : t ∈ c.catalog) (hform : formOf t v = some f)
    {recs : List Record} (hne : recs.length ≠ 0) (h : ∀ r ∈ recs, r.length = f.schema.length) :
    packTable c t f m recs = .ok (tableBlock c v m t recs, tableExceeds v (t, recs)) := by
  have hf := form_wellFormed c hc t ht v f hform
  obtain ⟨h8, hhdr, hlen⟩ := hdrF_ok c hc t.blockId (recs.length * f.size / 4) m
  obtain ⟨hcrc, hhcrc, -⟩ := storedCrc_ok h8 m (by omega)
  obtain ⟨dcrc, hdcrc, -⟩ := storedCrc_ok (entryBytes f m recs) m (length_entryBytes_mod_four hf m h)
  have hblock : tableBlock c v m t recs = h8 ++ hcrc ++ entryBytes f m recs ++ dcrc := by
    rw [tableBlock_of_form hform c m hne, hhdr, bufferOr, withCrc_of_storedCrc hhcrc, withCrc_of_storedCrc hdcrc,
      List.append_assoc _ _ dcrc]
  simp only [packTable, hhdr, hhcrc, packBody_eq hf m h, hdcrc, hblock, tableExceeds, hform]

/-- The blocks that PACK makes of tables that are fine (44_container_framer R215). -/
theorem packTables_eq {ts : List TableDesc} {tbl : List (List Record)} (hmem : ∀ t ∈ ts, t ∈ c.catalog)
    (h : ∀ p ∈ ts.zip tbl, tableFine v p.1 p.2) :
    packTables c v m ts tbl =
      .ok ((ts.zip tbl).flatMap fun p => tableBlock c v m p.1 p.2, (ts.zip tbl).any (tableExceeds v)) := by
  induction ts generalizing tbl with
  | nil => simp [packTables]
  | cons t ts ih =>
    obtain ⟨ht, hts⟩ := List.forall_mem_cons.mp hmem
    cases tbl with
    | nil => simp [packTables]
    | cons recs rest =>
      obtain ⟨⟨-, hrecs⟩, hrest⟩ := List.forall_mem_cons.mp h
      rw [List.zip_cons_cons, List.flatMap_cons, List.any_cons]
      cases recs with
      | nil => rw [packTables, ih hts hrest, tableBlock_nil, tableExceeds_nil, List.nil_append, Bool.false_or]
      | cons r recs =>
        obtain ⟨f, hform, hfit⟩ := hrecs.resolve_left nofun
        simp only [packTables, hform, packTable_eq hc v m ht hform (recs := r :: recs) nofun hfit, ih hts hrest]

/-- The image that PACK makes of a legal table set is the layout of 44_container_framer R213. -/
theorem packImage_eq {ts : TableSet} (h : TableSetLegal c v ts) (ph : U32) :
    packImage c v ts ph m = .ok (imageLayout c v m ts ph, tablesExceed c v ts) := by
  obtain ⟨-, -, hfine⟩ := h
  obtain ⟨d, hd, -⟩ := u32F_ok ts.dev m
  obtain ⟨h8, hhdr, -⟩ := hdrF_ok c hc 0 0 m
  obtain ⟨p, hp, -⟩ := u32F_ok ph m
  have hterminal : terminalF c ph m = .ok (h8 ++ p) := by
    simp only [terminalF, Config.terminalBlkId, hhdr, hp]
  simp only [packImage, hterminal, imageLayout, hd, packTables_eq hc v m (fun _ ht => ht) hfine, hhdr, hp, bufferOr,
    tablesExceed_eq]

/-! ### Its length -/

/-- The length of a table's block (44_container_framer R214). -/
theorem length_tableBlock {t : TableDesc} {recs : List Record} (ht : t ∈ c.catalog) (h : tableFine v t recs) :
    (tableBlock c v m t recs).length = blockLength v t recs ∧ blockLength v t recs % 4 = 0 := by
  obtain ⟨-, hrecs⟩ := h
  by_cases hne : recs.length = 0
  · rw [List.length_eq_zero_iff.mp hne, tableBlock_nil]
    unfold blockLength
    split <;> exact ⟨rfl, rfl⟩
  · obtain ⟨f, hform, hfit⟩ := hrecs.resolve_left hne
    have hf := form_wellFormed c hc t ht v f hform
    have hbody := length_entryBytes hf m hfit
    have hmod := length_entryBytes_mod_four hf m hfit
    have hhdr := length_hdrF hc t.blockId (recs.length * f.size / 4) m
    have hblock : blockLength v t recs = 16 + recs.length * f.size := by
      simp only [blockLength, hform, if_neg hne]
    rw [tableBlock_of_form hform c m hne, List.length_append, length_withCrc m (by omega), length_withCrc m hmod, hhdr,
      hblock]
    omega

/-- The image of a legal table set has the length of 44_container_framer R214, a multiple of 4. -/
theorem length_imageLayout {ts : TableSet} (h : TableSetLegal c v ts) (ph : U32) :
    (imageLayout c v m ts ph).length = imageLength c v ts ∧ imageLength c v ts % 4 = 0 := by
  obtain ⟨-, -, hfine⟩ := h
  have hblock (p : TableDesc × List Record) (hp : p ∈ c.catalog.zip ts.tbl) :=
    length_tableBlock hc v m (List.of_mem_zip hp).1 (hfine p hp)
  have hlen : ((c.catalog.zip ts.tbl).flatMap fun p => tableBlock c v m p.1 p.2).length =
      ((c.catalog.zip ts.tbl).map fun p => blockLength v p.1 p.2).sum := by
    rw [List.length_flatMap]
    exact congrArg List.sum (List.map_congr_left fun p hp => (hblock p hp).1)
  have hdvd : 4 ∣ ((c.catalog.zip ts.tbl).map fun p => blockLength v p.1 p.2).sum := by
    refine List.dvd_sum fun n hn => ?_
    obtain ⟨p, hp, rfl⟩ := List.mem_map.mp hn
    exact Nat.dvd_of_mod_eq_zero (hblock p hp).2
  have hhdr := length_hdrF hc 0 0 m
  have hdev := length_u32F ts.dev m
  have hph := length_u32F ph m
  simp only [imageLayout, imageLength, List.length_append, hlen]
  omega

end

/-! ### How PACK ends -/

section
variable {s : State} {v : Variant} (hc : ConfigOk s) (hmode : ModeSet s) (ha : s.slots.a0.toNat < 2 ^ 32)
  (hlegal : TableSetLegal s.cfg v s.slots.tables)
include hc hmode ha hlegal

/-- PACK of a legal table set checks the length of its image (44_container_framer R215). -/
theorem exec_pack_of_legal :
    exec .pack s =
      answer s (packFinish s.cfg
        (imageLayout s.cfg v s.layout s.slots.tables (placeholderOperand s), tablesExceed s.cfg v s.slots.tables)) := by
  rw [exec_eq_answer .pack s nofun, replyFor, packReply_ready hmode ha, preflightF_of_legal hc hlegal, replyOf_ok,
    packImage_eq hc v s.layout hlegal, replyOf_ok]

/-- PACK of a legal table set whose image fits (44_container_framer R215). -/
theorem exec_pack_of_fits (hfits : SizeFits s.cfg (imageLength s.cfg v s.slots.tables)) :
    exec .pack s =
      endsOk s (if tablesExceed s.cfg v s.slots.tables then 1 else 0)
        { Results.empty with
          out := imageLayout s.cfg v s.layout s.slots.tables (BitVec.ofNat 32 s.slots.a0.toNat) } := by
  obtain ⟨hlen, -⟩ := length_imageLayout hc v s.layout hlegal (placeholderOperand s)
  rw [exec_pack_of_legal hc hmode ha hlegal, packFinish, hlen, (tooLong_eq_false _ _).mpr hfits,
    if_neg Bool.false_ne_true, doneOut, answer_done hc, placeholderOperand]
  cases tablesExceed s.cfg v s.slots.tables <;> rfl

/-- PACK of a legal table set whose image is too long (44_container_framer R215, 60_exceptions R296). -/
theorem exec_pack_of_too_long (hfits : ¬ SizeFits s.cfg (imageLength s.cfg v s.slots.tables)) :
    exec .pack s = endsError s 10 0 (if tablesExceed s.cfg v s.slots.tables then 1 else 0) := by
  obtain ⟨hlen, -⟩ := length_imageLayout hc v s.layout hlegal (placeholderOperand s)
  have hlong : tooLong s.cfg (imageLength s.cfg v s.slots.tables) = true :=
    Bool.of_not_eq_false fun h => hfits ((tooLong_eq_false _ _).mp h)
  rw [exec_pack_of_legal hc hmode ha hlegal, packFinish, hlen, if_pos hlong, answer_raise _ hc (by decide)]
  cases tablesExceed s.cfg v s.slots.tables <;> rfl

end

/-- Settles O42: past the checks PACK makes the layout of R213, whose parts add up to the length of R214. -/
theorem packReturnsTheImage : Obligations.PackReturnsTheImage :=
  fun s v hc hmode ha hlegal hfits => ⟨exec_pack_of_fits hc hmode ha hlegal hfits,
    length_imageLayout hc v s.layout hlegal (BitVec.ofNat 32 s.slots.a0.toNat)⟩

/-- Settles O43: the image is made, and its length is refused with the warning set. -/
theorem packRefusesALongImage : Obligations.PackRefusesALongImage :=
  fun _ _ hc hmode ha hlegal hfits => exec_pack_of_too_long hc hmode ha hlegal hfits

end Sys2Proof.Machine

/-! SUPPORT. Proofs about UNPACK of packed images (44_container_framer R229 to R233): a packed image is a list of blocks
that UNPACK accepts, and their records are the table set's. -/

namespace Sys2Proof.Machine

/-! ### Headers read back -/

/-- A value that fits a field of a header is what the field holds. -/
theorem ofNat_mod_two_pow {n w : Nat} (h : n < 2 ^ w) (hw : w ≤ 64) :
    BitVec.ofNat 64 ((BitVec.ofNat 64 n).toNat % 2 ^ w) = BitVec.ofNat 64 n := by
  have h64 : n < 2 ^ 64 := h.trans_le (Nat.pow_le_pow_right (by decide) hw)
  rw [BitVec.toNat_ofNat, Nat.mod_eq_of_lt h64, Nat.mod_eq_of_lt h]

/-- The 8 bytes of `HDR_f` (44_container_framer R212). -/
theorem hdrF_eq {c : Config} (hc : wfConfig c = true) (bid lenw : Nat) (m : LayoutMode) :
    hdrF c bid lenw m =
      .ok (writeBits (writeBits (zeros 8) c.hdrBlkId.lsb (BitVec.ofNat 64 bid) m c.hdrBlkId.width) c.hdrLen.lsb
        (BitVec.ofNat 64 lenw) m c.hdrLen.width) := by
  obtain ⟨hbid, hlen, -⟩ := header_legal c hc m
  rw [hdrF, fieldSetF_legal (zeros 8) _ _ _ m hbid]
  dsimp only
  rw [fieldSetF_legal _ _ _ _ m (by rwa [writeBits_length, List.length_replicate])]
  rfl

/-- A header made of values that fit its two fields reads as them (44_container_framer R212). -/
theorem readsAsHeader_hdrF {c : Config} (hc : wfConfig c = true) (m : LayoutMode) {bid lenw : Nat}
    (hbid : bid < 2 ^ c.hdrBlkId.width) (hlenw : lenw < 2 ^ c.hdrLen.width) :
    ReadsAsHeader c m (bufferOr (hdrF c bid lenw m)) bid lenw := by
  obtain ⟨hl1, hl2, hdis⟩ := header_legal c hc m
  obtain ⟨-, hwidth1, -⟩ := id hl1
  obtain ⟨-, hwidth2, -⟩ := id hl2
  have hlen : (writeBits (zeros 8) c.hdrBlkId.lsb (BitVec.ofNat 64 bid) m c.hdrBlkId.width).length = 8 :=
    (writeBits_length _ _ _ _ _).trans (List.length_replicate ..)
  have hsame := fieldGetF_writeBits (B := zeros 8) (BitVec.ofNat 64 bid) hl1
  rw [← hlen] at hl1 hl2
  have hkept := fieldGetF_writeBits_of_disjoint (BitVec.ofNat 64 lenw) hl2 hl1 hdis.symm
  have hlast := fieldGetF_writeBits (BitVec.ofNat 64 lenw) hl2
  refine ⟨length_hdrF hc bid lenw m, ?_, ?_⟩ <;> rw [hdrF_eq hc, bufferOr]
  · exact (hkept.trans hsame).trans (congrArg Except.ok (ofNat_mod_two_pow hbid hwidth1))
  · exact hlast.trans (congrArg Except.ok (ofNat_mod_two_pow hlenw hwidth2))

/-- What a well-formed catalog says of the values its headers hold (00_scope R12 items 1 and 5). -/
theorem catalog_values_fit {c : Config} (hc : wfConfig c = true) {t : TableDesc} (ht : t ∈ c.catalog) :
    t.blockId < 2 ^ c.hdrBlkId.width ∧
      ∀ v f, formOf t v = some f → t.maxCount * f.size / 4 < 2 ^ c.hdrLen.width := by
  simp only [wfConfig, wfCat, Bool.and_eq_true, blockIdsFit, lengthsFit, List.all_eq_true, decide_eq_true_eq] at hc
  obtain ⟨⟨⟨⟨⟨⟨-, hids⟩, -⟩, hlens⟩, -⟩, -⟩, -⟩ := hc
  refine ⟨hids t ht, fun v f hf => hlens t ht f ?_⟩
  cases v <;> simp only [formOf] at hf <;> simp [presentForms, hf]

/-- The terminal header reads as length 0 (44_container_framer R213, R226). -/
theorem hlenF_terminal {c : Config} (hc : wfConfig c = true) (m : LayoutMode) :
    hlenF c (bufferOr (hdrF c 0 0 m)) m = .ok 0 := by
  obtain ⟨-, -, hlen⟩ := readsAsHeader_hdrF hc m (bid := 0) (lenw := 0) (Nat.two_pow_pos _) (Nat.two_pow_pos _)
  exact hlen

/-! ### The entries of a packed table -/

/-- The entries of a packed table decode to its records, every slot reduced (44_container_framer R233). -/
theorem map_entryRecord_entryBytes {f : TableForm} (hf : f.wellFormed = true) (m : LayoutMode) {recs : List Record}
    (h : ∀ r ∈ recs, r.length = f.schema.length) :
    (List.range recs.length).map (entryRecord f m (entryBytes f m recs)) = recs.map (maskRecord f) := by
  induction recs with
  | nil => rfl
  | cons r recs ih =>
    obtain ⟨hr, hrecs⟩ := List.forall_mem_cons.mp h
    have hlen : (writeFields m (f.schema.zip r) (zeros f.size)).length = f.size := by
      rw [writeFields_length, List.length_replicate]
    have hfirst : entryRecord f m (entryBytes f m (r :: recs)) 0 = maskRecord f r := by
      rw [entryRecord, entryBytes_cons hf m recs hr, Nat.zero_mul, slice, List.drop_zero, List.take_left' hlen,
        map_fieldValue_entry hf m hr]
    have hdrop : (entryBytes f m (r :: recs)).drop f.size = entryBytes f m recs := by
      rw [entryBytes_cons hf m recs hr, List.drop_left' hlen]
    rw [List.length_cons, List.range_succ_eq_map, List.map_cons, List.map_map, hfirst, List.map_cons, ← ih hrecs]
    refine congrArg _ (List.map_congr_left fun n _ => ?_)
    rw [Function.comp_apply, entryRecord_succ, hdrop]

/-! ### The blocks of a packed table set -/

/-- The block of a table that is not empty (44_container_framer R213). -/
def packedBlock (c : Config) (v : Variant) (m : LayoutMode) (p : TableDesc × List Record) : Option ImageBlock :=
  match formOf p.1 v with
  | none => none
  | some f =>
    if p.2.length = 0 then none
    else some ⟨p.1, bufferOr (hdrF c p.1.blockId (p.2.length * f.size / 4) m), entryBytes f m p.2⟩

theorem maskTable_nil (v : Variant) (t : TableDesc) : maskTable v t [] = [] := by
  unfold maskTable
  split <;> rfl

/-- A block is made of a table that is present and has records (44_container_framer R213). -/
theorem packedBlock_eq_some {c : Config} {v : Variant} {m : LayoutMode} {p : TableDesc × List Record} {d : ImageBlock} :
    packedBlock c v m p = some d ↔
      ∃ f, formOf p.1 v = some f ∧ p.2.length ≠ 0 ∧
        ⟨p.1, bufferOr (hdrF c p.1.blockId (p.2.length * f.size / 4) m), entryBytes f m p.2⟩ = d := by
  unfold packedBlock
  cases formOf p.1 v with
  | none => simp
  | some f => by_cases h : p.2.length = 0 <;> simp [h]

/-- The blocks of a list of tables in its order (44_container_framer R213). -/
def packedBlocks (c : Config) (v : Variant) (m : LayoutMode) (ps : List (TableDesc × List Record)) : List ImageBlock :=
  ps.filterMap (packedBlock c v m)

/-- Their bytes are the blocks of the image (44_container_framer R213). -/
theorem blocksBytes_packedBlocks (c : Config) (v : Variant) (m : LayoutMode) (ps : List (TableDesc × List Record)) :
    blocksBytes m (packedBlocks c v m ps) = ps.flatMap fun p => tableBlock c v m p.1 p.2 := by
  induction ps with
  | nil => rfl
  | cons p ps ih =>
    rw [packedBlocks, blocksBytes] at ih
    rw [packedBlocks, blocksBytes, List.flatMap_cons, List.filterMap_cons, packedBlock, tableBlock]
    cases hform : formOf p.1 v with
    | none => exact ih
    | some f =>
      by_cases h : p.2.length = 0
      · simp only [h, if_true]
        exact ih
      · simp only [if_neg h]
        rw [List.flatMap_cons, ih]
        rfl

/-- Their tables are some of the list's, in its order. -/
theorem map_table_packedBlocks_sublist (c : Config) (v : Variant) (m : LayoutMode)
    (ps : List (TableDesc × List Record)) :
    List.Sublist ((packedBlocks c v m ps).map ImageBlock.table) (ps.map Prod.fst) := by
  induction ps with
  | nil => exact List.Sublist.slnil
  | cons p ps ih =>
    rw [packedBlocks] at ih
    rw [packedBlocks, List.filterMap_cons]
    cases h : packedBlock c v m p with
    | none => exact ih.cons p.1
    | some d =>
      obtain ⟨f, -, -, rfl⟩ := packedBlock_eq_some.mp h
      exact ih.cons_cons p.1

section
variable {c : Config} (hc : wfConfig c = true) {v : Variant} (m : LayoutMode)
include hc

/-- The block of a table that is fine is one that UNPACK accepts, without a remainder, and its records are the table's
(44_container_framer R233). -/
theorem packedBlock_legal {p : TableDesc × List Record} {d : ImageBlock} (ht : p.1 ∈ c.catalog)
    (hfine : tableFine v p.1 p.2) (hd : packedBlock c v m p = some d) :
    BlockLegal c v m d ∧ blockRemainder v d = false ∧ blockRecords v m d = maskTable v p.1 p.2 := by
  obtain ⟨hcount, hrecs⟩ := hfine
  obtain ⟨f, hform, hne, rfl⟩ := packedBlock_eq_some.mp hd
  obtain ⟨g, hform', hfit⟩ := hrecs.resolve_left hne
  cases Option.some.inj (hform'.symm.trans hform)
  have hf := form_wellFormed c hc p.1 ht v f hform
  obtain ⟨hpos, -, -⟩ := wellFormed_fields f hf m
  obtain ⟨hid, hlens⟩ := catalog_values_fit hc ht
  have hlen := length_entryBytes hf m hfit
  have hmod := length_entryBytes_mod_four hf m hfit
  have hbytes : 0 < p.2.length * f.size := Nat.mul_pos (Nat.pos_of_ne_zero hne) hpos
  have hlenw : p.2.length * f.size / 4 < 2 ^ c.hdrLen.width :=
    (Nat.div_le_div_right (Nat.mul_le_mul_right f.size hcount)).trans_lt (hlens v f hform)
  have hdiv : p.2.length * f.size / f.size = p.2.length := Nat.mul_div_cancel _ hpos
  refine ⟨⟨ht, hmod, hlen ▸ hbytes, hlen ▸ hlenw, ?_, f, hform, by rwa [hlen, hdiv]⟩, ?_, ?_⟩
  · rw [hlen]
    exact readsAsHeader_hdrF hc m hid hlenw
  · simp only [blockRemainder, hform, hlen, Nat.mul_mod_left]
    rfl
  · rw [blockRecords_eq m hform hf, hlen, hdiv, map_entryRecord_entryBytes hf m hfit]
    simp only [maskTable, hform]

variable {ts : TableSet} (hlegal : TableSetLegal c v ts)
include hlegal

/-- A block of a legal table set and the table it is of. -/
theorem mem_packedBlocks {d : ImageBlock} (hd : d ∈ packedBlocks c v m (c.catalog.zip ts.tbl)) :
    ∃ p ∈ c.catalog.zip ts.tbl, packedBlock c v m p = some d ∧ d.table = p.1 ∧ BlockLegal c v m d ∧
      blockRemainder v d = false := by
  obtain ⟨p, hp, hpd⟩ := List.mem_filterMap.mp hd
  obtain ⟨hblock, hrem, -⟩ := packedBlock_legal hc m (List.of_mem_zip hp).1 (hlegal.fine hp) hpd
  obtain ⟨f, -, -, rfl⟩ := packedBlock_eq_some.mp hpd
  exact ⟨p, hp, hpd, rfl, hblock, hrem⟩

/-- The blocks of a legal table set are ones that UNPACK accepts one after another (44_container_framer R228). -/
theorem blocksLegal_packedBlocks : BlocksLegal c v m (packedBlocks c v m (c.catalog.zip ts.tbl)) := by
  refine ⟨fun d hd => ?_, ?_⟩
  · obtain ⟨-, -, -, -, hblock, -⟩ := mem_packedBlocks hc m hlegal hd
    exact hblock
  · have hsub := (map_table_packedBlocks_sublist c v m (c.catalog.zip ts.tbl)).map TableDesc.blockId
    rw [hlegal.map_fst_zip, List.map_map] at hsub
    exact (catalog_blockIds_nodup hc).sublist hsub

/-- A block id names one table of a table set, and so its records. -/
theorem zip_eq_of_blockId_eq {p q : TableDesc × List Record} (hp : p ∈ c.catalog.zip ts.tbl)
    (hq : q ∈ c.catalog.zip ts.tbl) (h : p.1.blockId = q.1.blockId) : p = q := by
  have hnodup := catalog_blockIds_nodup hc
  rw [← hlegal.map_fst_zip, List.map_map] at hnodup
  exact List.inj_on_of_nodup_map hnodup hp hq h

/-- The blocks of a legal table set give each table its records, every slot reduced (44_container_framer R233). -/
theorem tableRecords_packedBlocks {p : TableDesc × List Record} (hp : p ∈ c.catalog.zip ts.tbl) :
    tableRecords v m (packedBlocks c v m (c.catalog.zip ts.tbl)) p.1 = maskTable v p.1 p.2 := by
  unfold tableRecords
  cases hfind : (packedBlocks c v m (c.catalog.zip ts.tbl)).find? (fun d => d.table.blockId == p.1.blockId) with
  | some d =>
    obtain ⟨q, hq, hqd, htable, -, -⟩ := mem_packedBlocks hc m hlegal (List.mem_of_find?_eq_some hfind)
    have hid : d.table.blockId = p.1.blockId := by simpa using List.find?_some hfind
    obtain rfl := zip_eq_of_blockId_eq hc hlegal hq hp (htable ▸ hid)
    obtain ⟨-, -, hrecords⟩ := packedBlock_legal hc m (List.of_mem_zip hq).1 (hlegal.fine hq) hqd
    exact hrecords
  | none =>
    have hempty : p.2 = [] := by
      by_contra hne
      have hlen : p.2.length ≠ 0 := fun h => hne (List.length_eq_zero_iff.mp h)
      obtain ⟨-, hrecs⟩ := hlegal.fine hp
      obtain ⟨f, hform, -⟩ := hrecs.resolve_left hlen
      have hblock := (packedBlock_eq_some (c := c) (m := m)).mpr ⟨f, hform, hlen, rfl⟩
      exact List.find?_eq_none.mp hfind _ (List.mem_filterMap.mpr ⟨p, hp, hblock⟩) (beq_self_eq_true _)
    rw [hempty, maskTable_nil]

/-- All tables of a legal table set (44_container_framer R233). -/
theorem gatherBlocks_packedBlocks :
    gatherBlocks c v m (packedBlocks c v m (c.catalog.zip ts.tbl)) = (maskTables c v ts).tbl := by
  rw [gatherBlocks_eq, maskTables]
  conv_lhs => arg 2; rw [← hlegal.map_fst_zip]
  rw [List.map_map]
  exact List.map_congr_left fun p hp => tableRecords_packedBlocks hc m hlegal hp

/-- A packed image has no remainder (44_container_framer R230). -/
theorem blocksWarn_packedBlocks : blocksWarn v (packedBlocks c v m (c.catalog.zip ts.tbl)) = 0 := by
  have hno : (packedBlocks c v m (c.catalog.zip ts.tbl)).any (blockRemainder v) = false := by
    rw [List.any_eq_false]
    intro d hd
    obtain ⟨-, -, -, -, -, hrem⟩ := mem_packedBlocks hc m hlegal hd
    rw [hrem]
    exact Bool.false_ne_true
  rw [blocksWarn, hno, if_neg Bool.false_ne_true]

end

/-- The 4 bytes of a stored value stand where it was put and read as it (00_scope R17). -/
theorem get32F_take_four {x : U32} {m : LayoutMode} {B rest : Buffer} (h : B = bufferOr (u32F x m) ++ rest) :
    4 ≤ B.length ∧ get32F (B.take 4) m = .ok x ∧ B.drop 4 = rest := by
  obtain ⟨b, hb, hlen⟩ := u32F_ok x m
  rw [hb, bufferOr] at h
  rw [h, List.take_left' hlen, List.drop_left' hlen, List.length_append, hlen]
  exact ⟨Nat.le_add_right 4 _, get32F_of_u32F hb, rfl⟩

/-- Settles O46: the image is a list of blocks that UNPACK accepts, behind the device identifier and before the terminal
header. -/
theorem unpackReadsTheImageOfATableSet : Obligations.UnpackReadsTheImageOfATableSet := by
  intro s v ts ph h hlegal himage
  have hc : ConfigOk s := h.1
  rw [imageLayout, List.append_assoc, ← blocksBytes_packedBlocks] at himage
  obtain ⟨hlen, hdev, hdrop⟩ := get32F_take_four himage
  have hunpack := unpackReadsBlocksInAnyOrder s v ts.dev (packedBlocks s.cfg v s.layout (s.cfg.catalog.zip ts.tbl))
    (bufferOr (hdrF s.cfg 0 0 s.layout)) (bufferOr (u32F ph s.layout)) h hlen hdev hlegal.1
    (blocksLegal_packedBlocks hc s.layout hlegal) (length_hdrF hc 0 0 s.layout) (hlenF_terminal hc s.layout)
    (length_u32F ph s.layout).ge (by rw [hdrop, List.append_assoc])
  rw [blocksWarn_packedBlocks hc s.layout hlegal, gatherBlocks_packedBlocks hc s.layout hlegal] at hunpack
  exact hunpack

/-! ### UNPACK of what PACK returned -/

/-- PACK ends with OK only past all of its checks (44_container_framer R215). -/
theorem pack_status_zero {s t : State} {r : Response} {v : Variant} (h : exec .pack s = .next t)
    (hr : t.resp = some r) (h0 : r.status = 0) (hmaps : DeviceMaps s.cfg s.slots.tables.dev v) :
    ModeSet s ∧ s.slots.a0.toNat < 2 ^ 32 ∧ TableSetLegal s.cfg v s.slots.tables ∧
      SizeFits s.cfg (imageLength s.cfg v s.slots.tables) := by
  obtain ⟨hc, rfl⟩ := exec_eq_next.mp h
  cases hr
  rw [fullReply_of_ne_setmode s (by decide : Instr.pack ≠ .setmode), replyFor] at h0
  have hraise {w : Warn} {e : Err} (hreply : packReply s = .raise w e) : False :=
    status_raise_ne_zero w e (hreply ▸ h0)
  have ha : s.slots.a0.toNat < 2 ^ 32 := by
    by_contra ha
    have hp : packSlotLegal s = false := decide_eq_false ha
    exact hraise (if_pos hp)
  have hmode : ModeSet s := by
    by_contra hmode
    exact hraise (replyFor_of_mode_unset .pack s (Bool.eq_false_iff.mpr hmode) rfl (decide_eq_true ha))
  have hready := packReply_ready hmode ha
  obtain ⟨e, -, hpre⟩ | ⟨u, hu, hpre⟩ := replyOf_cases (preflightF s.cfg s.slots.tables) _
  · exact (hraise (hready.trans hpre)).elim
  · have hlegal := tableSetLegal_of_preflightF hu
    have hvariant := (variantOf_of_deviceMaps hc hlegal.1).symm.trans (variantOf_of_deviceMaps hc hmaps)
    obtain rfl : u = v := Except.ok.inj hvariant
    refine ⟨hmode, ha, hlegal, by_contra fun hfits => ?_⟩
    obtain ⟨hlen, -⟩ := length_imageLayout hc u s.layout hlegal (placeholderOperand s)
    have hlong : tooLong s.cfg (imageLength s.cfg u s.slots.tables) = true :=
      Bool.of_not_eq_false fun h => hfits ((tooLong_eq_false _ _).mp h)
    refine hraise ((hready.trans hpre).trans ?_) (w := Warn.truncated (tablesExceed s.cfg u s.slots.tables))
      (e := .invalidLength)
    rw [packImage_eq hc u s.layout hlegal, replyOf_ok, packFinish, hlen, if_pos hlong]

/-- Settles O45: a successful PACK returned the image of a legal table set, which UNPACK reads. -/
theorem unpackGivesBackWhatWasPacked : Obligations.UnpackGivesBackWhatWasPacked := by
  intro s t r v h hr h0 hmaps
  obtain ⟨hc, -⟩ := exec_eq_next.mp h
  obtain ⟨hmode, ha, hlegal, hfits⟩ := pack_status_zero h hr h0 hmaps
  obtain ⟨hlen, -⟩ := length_imageLayout hc v s.layout hlegal (BitVec.ofNat 32 s.slots.a0.toNat)
  have hpack := h.symm.trans (exec_pack_of_fits hc hmode ha hlegal hfits)
  cases hpack
  cases hr
  refine unpackReadsTheImageOfATableSet _ v s.slots.tables (BitVec.ofNat 32 s.slots.a0.toNat)
    ⟨hc, hmode, fun k hk => ?_⟩ hlegal rfl
  exact hlen.trans_le (hfits k hk)

end Sys2Proof.Machine

/-! SUPPORT. Proofs about the checks of UNPACK (44_container_framer R225 to R232): what the loop does at the header
after any list of blocks that it accepts, and that it reads no byte after the terminal header. -/

namespace Sys2Proof.Machine

/-! ### One block of any declared length -/

/-- A table's place in the catalog is the one place that holds it (00_scope R12 item 1). -/
theorem idxOf_of_getElem? {c : Config} (hc : wfConfig c = true) {k : Nat} {t : TableDesc}
    (h : c.catalog[k]? = some t) : c.catalog.idxOf t = k := by
  have hmem : t ∈ c.catalog := List.mem_of_getElem? h
  have hidx : c.catalog[c.catalog.idxOf t]? = c.catalog[k]? := (List.getElem?_idxOf hmem).trans h.symm
  exact (List.getElem?_inj (List.idxOf_lt_length_of_mem hmem) ((catalog_blockIds_nodup hc).of_map _)).mp hidx

/-- One block alone fills its table's place (44_container_framer R228, R232). -/
theorem gatherBlocks_singleton {c : Config} (hc : wfConfig c = true) (v : Variant) (m : LayoutMode) {d : ImageBlock}
    (ht : d.table ∈ c.catalog) :
    gatherBlocks c v m [d] = (emptyTables c).set (blockIndex c d) (blockRecords v m d) := by
  have happend := gatherBlocks_append_singleton v m (ds := []) hc ht nofun
  rwa [gatherBlocks_nil, emptyTables, List.getD_eq_getElem?_getD, List.getElem?_getD_replicate_default_eq,
    List.nil_append] at happend

/-- The records of a block are its whole entries, each decoded on its own (44_container_framer R229). -/
theorem entryDecodeF_of_blockRecords {v : Variant} {m : LayoutMode} {d : ImageBlock} {f : TableForm}
    (hform : formOf d.table v = some f) (hf : f.wellFormed = true) {n : Nat} {r : Record}
    (h : (blockRecords v m d)[n]? = some r) :
    entryDecodeF f ((d.body.drop (n * f.size)).take f.size) m = .ok r := by
  rw [blockRecords_eq m hform hf, List.getElem?_map, Option.map_eq_some_iff] at h
  obtain ⟨i, hi, rfl⟩ := h
  obtain ⟨hn, rfl⟩ : n < d.body.length / f.size ∧ n = i := by simpa [List.getElem?_eq_some_iff] using hi
  exact entryDecodeF_eq m hf (length_entry hn)

/-- The warning of one block (44_container_framer R230). -/
theorem blocksWarn_singleton {v : Variant} {d : ImageBlock} {f : TableForm} (hform : formOf d.table v = some f) :
    blocksWarn v [d] = if d.body.length % f.size = 0 then 0 else 2 := by
  have hrem : blockRemainder v d = decide (d.body.length % f.size ≠ 0) := by
    simp only [blockRemainder, hform]
  rw [blocksWarn, List.any_cons, List.any_nil, Bool.or_false, hrem]
  by_cases h : d.body.length % f.size = 0 <;> simp [h]

/-- Settles O47: the image is one block, behind the device identifier and before the terminal header. -/
theorem unpackDecodesADeclaredLength : Obligations.UnpackDecodesADeclaredLength := by
  intro s v dev k lenw t f body ph rest h hmaps hk hform hpos hlenw hcount hbody hph himage
  have hc : ConfigOk s := h.1
  have ht : t ∈ s.cfg.catalog := List.mem_of_getElem? hk
  let d : ImageBlock := ⟨t, bufferOr (hdrF s.cfg t.blockId lenw s.layout), body⟩
  have hdiv : body.length / 4 = lenw := by omega
  have hd : BlockLegal s.cfg v s.layout d := by
    refine ⟨ht, ?_, ?_, ?_, ?_, f, hform, ?_⟩ <;> dsimp only [d]
    · omega
    · omega
    · rwa [hdiv]
    · rw [hdiv]
      exact readsAsHeader_hdrF hc s.layout (catalog_values_fit hc ht).1 hlenw
    · rwa [hbody]
  have hds : BlocksLegal s.cfg v s.layout [d] := ⟨List.forall_mem_singleton.mpr hd, List.nodup_singleton _⟩
  have himage' : s.slots.inBuf = bufferOr (u32F dev s.layout) ++
      (blocksBytes s.layout [d] ++ bufferOr (hdrF s.cfg 0 0 s.layout) ++ (ph ++ rest)) := by
    simp only [himage, blocksBytes, blockBytes, List.flatMap_cons, List.flatMap_nil, List.append_nil,
      List.append_assoc, d]
  obtain ⟨hlen, hdev, hdrop⟩ := get32F_take_four himage'
  have hunpack := unpackReadsBlocksInAnyOrder s v dev [d] _ (ph ++ rest) h hlen hdev hmaps hds
    (length_hdrF hc 0 0 s.layout) (hlenF_terminal hc s.layout) (by rw [List.length_append]; omega) hdrop
  have hf := form_wellFormed hc (c := s.cfg) t ht v f hform
  refine ⟨blockRecords v s.layout d, ?_, fun n r hr => entryDecodeF_of_blockRecords hform hf hr, ?_⟩
  · rw [blockRecords_eq s.layout hform hf, List.length_map, List.length_range, ← hbody]
  · rw [hunpack, blocksWarn_singleton hform, gatherBlocks_singleton hc v s.layout ht, blockIndex,
      idxOf_of_getElem? hc hk, emptyTables, ← hbody]

/-- Settles O49: an image of no blocks before a header whose length field is 0. -/
theorem unpackStopsAtTheTerminalHeader : Obligations.UnpackStopsAtTheTerminalHeader := by
  intro s v dev h hlen hdev hmaps hzero
  have hheader : ((s.slots.inBuf.drop 4).take 8).length = 8 := by
    rw [List.length_take, List.length_drop]
    omega
  have hrest : 4 ≤ ((s.slots.inBuf.drop 4).drop 8).length := by
    rw [List.length_drop, List.length_drop]
    omega
  have hunpack := unpackReadsBlocksInAnyOrder s v dev [] _ ((s.slots.inBuf.drop 4).drop 8) h (by omega) hdev hmaps
    ⟨nofun, List.nodup_nil⟩ hheader hzero hrest (by rw [List.append_assoc, List.take_append_drop]; rfl)
  rw [gatherBlocks_nil] at hunpack
  exact hunpack

/-! ### The header after a list of blocks -/

/-- UNPACK that ended with an error of its loop keeps the warning set before it (60_exceptions R296). -/
theorem answer_unpackFinish_error {s : State} (hc : ConfigOk s) (dev : U32) (warn : Bool) {e : Err} (he : e.code ≠ 7) :
    answer s (unpackFinish dev (warn, .error e)) = endsError s e.code 0 (if warn then 2 else 0) := by
  refine (answer_raise (Warn.mismatch warn) hc he).trans ?_
  cases warn <;> rfl

/-- A slice of an image is a slice of what follows an offset (00_scope R15). -/
theorem slice_add (B : Buffer) (p a n : Nat) : slice B (p + a) n = slice (B.drop p) a n := by
  rw [slice, slice, List.drop_drop]

/-- An image of which the loop of UNPACK accepts the blocks `ds` and then stands before `tail`. -/
structure AfterBlocks (s : State) (v : Variant) (dev : U32) (ds : List ImageBlock) (tail : Buffer) : Prop where
  ready : ReadyToRead s
  length : 4 ≤ s.slots.inBuf.length
  device : get32F (s.slots.inBuf.take 4) s.layout = .ok dev
  maps : DeviceMaps s.cfg dev v
  legal : BlocksLegal s.cfg v s.layout ds
  bytes : s.slots.inBuf.drop 4 = blocksBytes s.layout ds ++ tail

section
variable {s : State} {v : Variant} {dev : U32} {ds : List ImageBlock} {tail : Buffer}

/-- The offset of the header after the blocks. -/
def offsetAfter (s : State) (ds : List ImageBlock) : Nat := 4 + (blocksBytes s.layout ds).length

variable (h : AfterBlocks s v dev ds tail)
include h

theorem drop_offsetAfter : s.slots.inBuf.drop (offsetAfter s ds) = tail := by
  rw [offsetAfter, ← List.drop_drop, h.bytes, List.drop_left]

theorem length_eq_offsetAfter_add : s.slots.inBuf.length = offsetAfter s ds + tail.length := by
  have hlen := congrArg List.length h.bytes
  have hge := h.length
  rw [List.length_drop, List.length_append] at hlen
  rw [offsetAfter]
  omega

/-- UNPACK goes on at the header after the blocks with their records, their places and their warning
(44_container_framer R225). -/
theorem exec_unpack_afterBlocks :
    ∃ fuel, exec .unpack s =
      answer s (unpackFinish dev (unpackLoop s.cfg v s.layout s.slots.inBuf (fuel + 1) (offsetAfter s ds)
        (gatherBlocks s.cfg v s.layout ds) (ds.map (blockIndex s.cfg)).reverse (ds.any (blockRemainder v)))) := by
  have hprefix : blocksBytes s.layout ds <+: s.slots.inBuf.drop 4 := h.bytes ▸ List.prefix_append _ _
  have hcount := length_le_length_blocksBytes h.legal.1
  have hlen := length_eq_offsetAfter_add h
  rw [offsetAfter] at hlen
  refine ⟨s.slots.inBuf.length - ds.length, ?_⟩
  have hfuel : s.slots.inBuf.length + 1 = s.slots.inBuf.length - ds.length + 1 + ds.length := by omega
  rw [exec_unpack_of_device h.ready h.length h.device h.maps, hfuel, unpackLoop_of_blocks h.ready.1 hprefix h.legal,
    offsetAfter]

/-- An error at the header itself ends UNPACK with the blocks' warning (44_container_framer R225 steps 1 to 3). -/
theorem exec_unpack_of_readHeader_error {e : Err}
    (he : readHeader s.cfg v s.layout s.slots.inBuf (offsetAfter s ds) = .error e) (hcode : e.code ≠ 7) :
    exec .unpack s = endsError s e.code 0 (blocksWarn v ds) := by
  obtain ⟨fuel, hexec⟩ := exec_unpack_afterBlocks h
  rw [hexec, unpackLoop, he]
  exact answer_unpackFinish_error h.ready.1 dev _ hcode

/-- A header of a table whose block came before ends UNPACK with DuplicateBlockId (44_container_framer R228). -/
theorem exec_unpack_of_seen {d : ImageBlock} (hd : d ∈ ds) {f : TableForm} {lenw : Nat}
    (hheader : readHeader s.cfg v s.layout s.slots.inBuf (offsetAfter s ds) =
      .ok (.table ⟨s.cfg.catalog.idxOf d.table, d.table, f⟩ lenw)) :
    exec .unpack s = endsError s 12 0 (blocksWarn v ds) := by
  obtain ⟨fuel, hexec⟩ := exec_unpack_afterBlocks h
  have hseen : s.cfg.catalog.idxOf d.table ∈ (ds.map (blockIndex s.cfg)).reverse :=
    List.mem_reverse.mpr (List.mem_map_of_mem (f := blockIndex s.cfg) hd)
  rw [hexec, unpackLoop, hheader]
  simp only [if_pos hseen]
  exact answer_unpackFinish_error h.ready.1 dev _ (e := .duplicateBlockId) (by decide)

end

/-- Settles O48: the repeated header names a table whose place the loop has seen. -/
theorem unpackRefusesARepeatedTable : Obligations.UnpackRefusesARepeatedTable := by
  intro s v dev ds d lenw header rest hready hlen hdev hmaps hds hd hpos hlenw hreads hbytes
  rw [List.append_assoc] at hbytes
  have h : AfterBlocks s v dev ds (withCrc header s.layout ++ rest) := ⟨hready, hlen, hdev, hmaps, hds, hbytes⟩
  obtain ⟨ht, -, -, -, -, f, hform, -⟩ := hds.1 d hd
  have hprefix : withCrc header s.layout <+: s.slots.inBuf.drop (offsetAfter s ds) :=
    drop_offsetAfter h ▸ List.prefix_append _ _
  exact exec_unpack_of_seen h hd (readHeader_of_table hready.1 hprefix ht hform hpos hlenw hreads)

/-! ### Every check at a header -/

/-- The place of a table that no block names is one the loop has not seen (44_container_framer R228). -/
theorem idxOf_not_seen {c : Config} {ds : List ImageBlock} {t : TableDesc} (ht : t ∈ c.catalog)
    (hnew : t.blockId ∉ ds.map (fun d => d.table.blockId)) :
    c.catalog.idxOf t ∉ (ds.map (blockIndex c)).reverse :=
  blockIndex_not_mem (d := ⟨t, [], []⟩) ht fun e he heq => hnew (List.mem_map.mpr ⟨e, he, heq⟩)

/-- What the bytes before the loop stand at read as: a header of nonzero length and its stored CRC (44_container_framer
R212, R225). -/
structure HeaderReads (s : State) (tail : Buffer) (lenw bid : U64) (crc stored : U32) : Prop where
  fits : 12 ≤ tail.length
  length : hlenF s.cfg (tail.take 8) s.layout = .ok lenw
  nonzero : lenw ≠ 0
  blockId : hbidF s.cfg (tail.take 8) s.layout = .ok bid
  crc : crc32F (tail.take 8) s.layout = .ok crc
  stored : get32F ((tail.drop 8).take 4) s.layout = .ok stored

section
variable {s : State} {v : Variant} {dev : U32} {ds : List ImageBlock} {tail : Buffer} {lenw bid : U64}
  {crc stored : U32} (h : AfterBlocks s v dev ds tail) (hr : HeaderReads s tail lenw bid crc stored)
include h hr

/-- The header after the blocks, in terms of what it reads (44_container_framer R225 steps 2 and 3). -/
theorem readHeader_afterBlocks :
    readHeader s.cfg v s.layout s.slots.inBuf (offsetAfter s ds) =
      if crc ≠ stored then .error .headerCrcMismatch
      else (lookup s.cfg bid.toNat v).map fun t => .table t lenw.toNat := by
  have hlen := length_eq_offsetAfter_add h
  have hdrop := drop_offsetAfter h
  have hfits := hr.fits
  have hfirst : slice s.slots.inBuf (offsetAfter s ds) 8 = tail.take 8 := by rw [slice, hdrop]
  have hlast : slice s.slots.inBuf (offsetAfter s ds + 8) 4 = (tail.drop 8).take 4 := by rw [slice_add, hdrop, slice]
  rw [readHeader_of_reads (by omega) (hfirst ▸ hr.length) (hfirst ▸ hr.blockId) (hfirst ▸ hr.crc) (hlast ▸ hr.stored),
    if_neg hr.nonzero]

/-- Another stored CRC (44_container_framer R225 step 2). -/
theorem exec_unpack_of_header_crc (hcrc : crc ≠ stored) : exec .unpack s = endsError s 3 0 (blocksWarn v ds) := by
  refine exec_unpack_of_readHeader_error h (e := .headerCrcMismatch) ?_ (by decide)
  rw [readHeader_afterBlocks h hr, if_pos hcrc]

/-- A block id without a table (44_container_framer R225 step 3). -/
theorem exec_unpack_of_no_table (hcrc : crc = stored) (hno : ¬ ∃ f, HasTable s.cfg bid.toNat v f) :
    exec .unpack s = endsError s 2 0 (blocksWarn v ds) := by
  refine exec_unpack_of_readHeader_error h (e := .unknownBlockId) ?_ (by decide)
  rw [readHeader_afterBlocks h hr, if_neg (not_not_intro hcrc), lookup_of_no_table hno]
  rfl

/-- The table that a matching header names (44_container_framer R225 step 3). -/
theorem readHeader_afterBlocks_of_table {t : TableDesc} {f : TableForm} (hcrc : crc = stored)
    (ht : t ∈ s.cfg.catalog) (hid : t.blockId = bid.toNat) (hform : formOf t v = some f) :
    readHeader s.cfg v s.layout s.slots.inBuf (offsetAfter s ds) =
      .ok (.table ⟨s.cfg.catalog.idxOf t, t, f⟩ lenw.toNat) := by
  rw [readHeader_afterBlocks h hr, if_neg (not_not_intro hcrc), ← hid, lookup_of_mem h.ready.1 ht hform]
  rfl

/-- The block id of a table whose block came before (44_container_framer R228). -/
theorem exec_unpack_of_repeated (hcrc : crc = stored) (hmem : bid.toNat ∈ ds.map (fun d => d.table.blockId)) :
    exec .unpack s = endsError s 12 0 (blocksWarn v ds) := by
  obtain ⟨d, hd, hid⟩ := List.mem_map.mp hmem
  obtain ⟨ht, -, -, -, -, f, hform, -⟩ := h.legal.1 d hd
  exact exec_unpack_of_seen h hd (readHeader_afterBlocks_of_table h hr hcrc ht hid hform)

section
variable {t : TableDesc} {f : TableForm} (hcrc : crc = stored) (ht : t ∈ s.cfg.catalog)
  (hid : t.blockId = bid.toNat) (hform : formOf t v = some f)
  (hnew : bid.toNat ∉ ds.map (fun d => d.table.blockId))
include hcrc ht hid hform hnew

/-- A bound that the table's data breaks (44_container_framer R225 step 6, R227, R229). -/
theorem exec_unpack_of_readBody_error {e : Err} (hcode : e.code ≠ 7)
    (he : readBody ⟨s.cfg.catalog.idxOf t, t, f⟩ s.layout s.slots.inBuf (offsetAfter s ds + 12) (4 * lenw.toNat) =
      .error e) : exec .unpack s = endsError s e.code 0 (blocksWarn v ds) := by
  obtain ⟨fuel, hexec⟩ := exec_unpack_afterBlocks h
  have hunseen := idxOf_not_seen ht (hid ▸ hnew)
  rw [hexec, unpackLoop, readHeader_afterBlocks_of_table h hr hcrc ht hid hform]
  simp only [if_neg hunseen, he]
  exact answer_unpackFinish_error h.ready.1 dev _ hcode

/-- Another stored data CRC: the remainder was warned of before it (44_container_framer R225 step 8, R230). -/
theorem exec_unpack_of_data_crc {dcrc dstored : U32} (hcount : 4 * lenw.toNat / f.size ≤ t.maxCount)
    (hin : 16 + 4 * lenw.toNat ≤ tail.length)
    (hdcrc : crc32F ((tail.drop 12).take (4 * lenw.toNat)) s.layout = .ok dcrc)
    (hdstored : get32F ((tail.drop (12 + 4 * lenw.toNat)).take 4) s.layout = .ok dstored) (hne : dcrc ≠ dstored) :
    exec .unpack s = endsError s 4 0 (if 4 * lenw.toNat % f.size = 0 then blocksWarn v ds else 2) := by
  obtain ⟨fuel, hexec⟩ := exec_unpack_afterBlocks h
  have hunseen := idxOf_not_seen ht (hid ▸ hnew)
  have hlen := length_eq_offsetAfter_add h
  have hdrop := drop_offsetAfter h
  have hf := form_wellFormed s.cfg h.ready.1 t ht v f hform
  have hdata : slice s.slots.inBuf (offsetAfter s ds + 12) (4 * lenw.toNat) = (tail.drop 12).take (4 * lenw.toNat) := by
    rw [slice_add, hdrop, slice]
  have hlast : slice s.slots.inBuf (offsetAfter s ds + 12 + 4 * lenw.toNat) 4 =
      (tail.drop (12 + 4 * lenw.toNat)).take 4 := by rw [Nat.add_assoc, slice_add, hdrop, slice]
  have hbody := readBody_of_fits (t := ⟨s.cfg.catalog.idxOf t, t, f⟩) s.layout (B := s.slots.inBuf)
    (b := offsetAfter s ds + 12) hf hcount (by omega)
  have hcheck :
      checkDataCrc s.layout s.slots.inBuf (offsetAfter s ds + 12) (4 * lenw.toNat) = some .dataCrcMismatch := by
    simp only [checkDataCrc, hdata, hlast, hdcrc, hdstored, if_neg hne]
  rw [hexec, unpackLoop, readHeader_afterBlocks_of_table h hr hcrc ht hid hform]
  simp only [if_neg hunseen, hbody, hcheck]
  refine (answer_unpackFinish_error h.ready.1 dev _ (e := .dataCrcMismatch) (by decide)).trans ?_
  have hdiv := Nat.div_add_mod' (4 * lenw.toNat) f.size
  by_cases hmod : 4 * lenw.toNat % f.size = 0
  · have hwhole : 4 * lenw.toNat / f.size * f.size = 4 * lenw.toNat := by omega
    simp [hmod, hwhole, blocksWarn, Err.code]
  · have hpart : 4 * lenw.toNat / f.size * f.size ≠ 4 * lenw.toNat := by omega
    simp [hmod, hpart, Err.code]

end

end

/-! ### Every check in order -/

/-- UNPACK past the mode and the input checks (44_container_framer R225). -/
theorem exec_unpack_ready {s : State} (hmode : ModeSet s) (hfits : InputFits s) :
    exec .unpack s = answer s (replyOf (imageDev s.slots.inBuf s.layout) fun dev =>
      replyOf (variantOf s.cfg dev) fun v => unpackFinish dev
        (unpackLoop s.cfg v s.layout s.slots.inBuf (s.slots.inBuf.length + 1) 4 (emptyTables s.cfg) [] false)) := by
  rw [exec_eq_answer .unpack s nofun, replyFor, unpackReply, withMode_set s _ hmode, withInput_fits s _ hfits]
  rfl

section
variable {s : State} (hc : ConfigOk s) (hmode : ModeSet s)
include hc hmode

/-- UNPACK turns an `IN` longer than `MAX_BUF_BYTES` away (20_memory R62). -/
theorem exec_unpack_of_not_inputFits (hfits : ¬ InputFits s) : exec .unpack s = endsError s 10 0 0 := by
  rw [exec_eq_answer .unpack s nofun, replyFor, unpackReply, withMode_set s _ hmode, withInput_tooLong s _ hfits]
  exact answer_raising hc (by decide)

variable (hfits : InputFits s)
include hfits

/-- UNPACK turns an image too short for a device identifier away (44_container_framer R225). -/
theorem exec_unpack_of_short (h : s.slots.inBuf.length < 4) : exec .unpack s = endsError s 11 0 0 := by
  have hdev : imageDev s.slots.inBuf s.layout = .error .imageTruncated := if_pos h
  rw [exec_unpack_ready hmode hfits, hdev, replyOf_error]
  exact answer_raising hc (by decide)

/-- UNPACK turns an unknown device identifier away (44_container_framer R211, R225). -/
theorem exec_unpack_of_unknown_device {dev : U32} (hlen : 4 ≤ s.slots.inBuf.length)
    (hdev : get32F (s.slots.inBuf.take 4) s.layout = .ok dev) (hno : ¬ ∃ v, DeviceMaps s.cfg dev v) :
    exec .unpack s = endsError s 6 0 0 := by
  have himage : imageDev s.slots.inBuf s.layout = .ok dev := (if_neg (Nat.not_lt.mpr hlen)).trans hdev
  rw [exec_unpack_ready hmode hfits, himage, replyOf_ok, variantOf_of_unknown hno, replyOf_error]
  exact answer_raising hc (by decide)

end

/-- Settles O51: each clause picks the first check that fails, before the loop or at the header after the blocks. -/
theorem unpackChecksEveryHeaderInOrder : Obligations.UnpackChecksEveryHeaderInOrder := by
  intro s hc hmode
  refine ⟨exec_unpack_of_not_inputFits hc hmode, exec_unpack_of_short hc hmode,
    fun dev hfits hlen hdev hno => exec_unpack_of_unknown_device hc hmode hfits hlen hdev hno,
    fun dev v ds tail hfits hlen hdev hmaps hds hbytes => ?_⟩
  have h : AfterBlocks s v dev ds tail := ⟨⟨hc, hmode, hfits⟩, hlen, hdev, hmaps, hds, hbytes⟩
  have htotal := length_eq_offsetAfter_add h
  refine ⟨fun hshort => exec_unpack_of_readHeader_error h (readHeader_of_short (by omega)) (by decide),
    fun lenw bid crc stored h12 hhlen hne hhbid hhcrc hget => ?_⟩
  have hr : HeaderReads s tail lenw bid crc stored := ⟨h12, hhlen, hne, hhbid, hhcrc, hget⟩
  refine ⟨exec_unpack_of_header_crc h hr, exec_unpack_of_no_table h hr, exec_unpack_of_repeated h hr,
    fun t ht f hcrc hid hform hnew => ⟨fun hcount => ?_, fun hcount hshort => ?_,
      fun dcrc dstored hcount hin hdcrc hdstored hdne =>
        exec_unpack_of_data_crc h hr hcrc ht hid hform hnew hcount hin hdcrc hdstored hdne⟩⟩
  · exact exec_unpack_of_readBody_error h hr hcrc ht hid hform hnew (e := .entryCountExceeded) (by decide)
      (if_pos hcount)
  · exact exec_unpack_of_readBody_error h hr hcrc ht hid hform hnew (e := .imageTruncated) (by decide)
      ((if_neg (Nat.not_lt.mpr hcount)).trans (if_pos (by omega)))

/-! ### Bytes after the terminal header -/

/-- A slice inside an image does not see bytes put after it (00_scope R15). -/
theorem slice_append {B : Buffer} (X : Buffer) {a n : Nat} (h : a + n ≤ B.length) :
    slice (B ++ X) a n = slice B a n := by
  rw [slice, slice, List.drop_append_of_le_length (by omega), List.take_append_of_le_length]
  rw [List.length_drop]
  omega

section
variable {c : Config} {v : Variant} {m : LayoutMode} {B : Buffer} (X : Buffer)

/-- A header that was read is read again (44_container_framer R232). -/
theorem readHeader_append {p : Nat} {hd : Header} (h : readHeader c v m B p = .ok hd) :
    readHeader c v m (B ++ X) p = .ok hd := by
  by_cases hin : B.length < p + 12
  · cases (readHeader_of_short hin).symm.trans h
  · have hin' : ¬ (B ++ X).length < p + Config.hdrBytes := by
      rw [List.length_append, Config.hdrBytes]
      omega
    rw [readHeader, Config.hdrBytes, if_neg hin] at h
    rw [readHeader, if_neg hin', slice_append X (by omega), slice_append X (by omega)]
    exact h

/-- A table's data that was read is read again, and its CRC compared again (44_container_framer R232). -/
theorem readBody_append {t : Found} {b D : Nat} {recs : List Record} (hf : t.form.wellFormed = true)
    (h : readBody t m B b D = .ok recs) :
    readBody t m (B ++ X) b D = .ok recs ∧ checkDataCrc m (B ++ X) b D = checkDataCrc m B b D := by
  obtain he | he | ⟨hin, hcount, -⟩ := readBody_cases m B b D hf
  · cases he.symm.trans h
  · cases he.symm.trans h
  · have hregion : slice (B ++ X) b D = slice B b D := slice_append X (by omega)
    have hstored : slice (B ++ X) (b + D) 4 = slice B (b + D) 4 := slice_append X hin
    have hin' : b + D + 4 ≤ (B ++ X).length := by
      rw [List.length_append]
      omega
    have hfirst := readBody_of_fits m hf hcount hin
    have hagain := readBody_of_fits m hf hcount hin'
    rw [hregion] at hagain
    exact ⟨hagain.trans (hfirst.symm.trans h), by rw [checkDataCrc, checkDataCrc, hregion, hstored]⟩

/-- The loop of UNPACK that ended with tables ends with them again, whatever follows the image (44_container_framer
R232). -/
theorem unpackLoop_append (hc : wfConfig c = true) {fuel fuel' p : Nat} {tbl : List (List Record)} {seen : List Nat}
    {warn w : Bool} {r : List (List Record)} (h : unpackLoop c v m B fuel p tbl seen warn = (w, .ok r))
    (hfuel : fuel ≤ fuel') : unpackLoop c v m (B ++ X) fuel' p tbl seen warn = (w, .ok r) := by
  induction fuel generalizing fuel' p tbl seen warn with
  | zero => cases (Prod.mk.inj h).2
  | succ fuel ih =>
    obtain ⟨n, rfl⟩ : ∃ n, fuel' = n + 1 := ⟨fuel' - 1, by omega⟩
    rw [unpackLoop] at h ⊢
    split at h
    next => cases (Prod.mk.inj h).2
    next hheader =>
      rw [readHeader_append X hheader]
      exact h
    next t lenw hheader =>
      rw [readHeader_append X hheader]
      dsimp only
      split at h
      next => cases (Prod.mk.inj h).2
      next hseen =>
        rw [if_neg hseen]
        split at h
        next => cases (Prod.mk.inj h).2
        next recs hbody =>
          obtain ⟨hbody', hcrc⟩ := readBody_append X (readHeader_table hc hheader) hbody
          rw [hbody']
          dsimp only
          rw [hcrc]
          split at h
          next => cases (Prod.mk.inj h).2
          next => exact ih h (by omega)

end

/-- UNPACK that ended with OK went through every check (44_container_framer R225). -/
theorem unpackReply_of_status_zero {s : State} (h : (unpackReply s).response.status = 0) :
    ModeSet s ∧ InputFits s ∧ 4 ≤ s.slots.inBuf.length ∧ ∃ dev v w tbl,
      imageDev s.slots.inBuf s.layout = .ok dev ∧ variantOf s.cfg dev = .ok v ∧
      unpackLoop s.cfg v s.layout s.slots.inBuf (s.slots.inBuf.length + 1) 4 (emptyTables s.cfg) [] false =
        (w, .ok tbl) := by
  unfold unpackReply at h
  obtain ⟨-, hr⟩ | ⟨hmode, hr⟩ := withMode_cases s _
  · exact absurd (hr ▸ h) (status_raise_ne_zero _ _)
  rw [hr] at h
  obtain ⟨-, hr⟩ | ⟨hfits, hr⟩ := withInput_cases s _
  · exact absurd (hr ▸ h) (status_raise_ne_zero _ _)
  rw [hr] at h
  obtain ⟨e, -, hr⟩ | ⟨dev, hdev, hr⟩ := replyOf_cases (imageDev s.slots.inBuf s.layout) _
  · exact absurd (hr ▸ h) (status_raise_ne_zero _ _)
  rw [hr] at h
  obtain ⟨e, -, hr⟩ | ⟨v, hv, hr⟩ := replyOf_cases (variantOf s.cfg dev) _
  · exact absurd (hr ▸ h) (status_raise_ne_zero _ _)
  rw [hr, unpackFinish] at h
  have hlen : 4 ≤ s.slots.inBuf.length := by
    by_contra hshort
    have himage : imageDev s.slots.inBuf s.layout = .error .imageTruncated := if_pos (Nat.not_le.mp hshort)
    cases himage.symm.trans hdev
  split at h
  next => exact absurd h (status_raise_ne_zero _ _)
  next tbl htbl => exact ⟨hmode, hfits, hlen, dev, v, _, tbl, hdev, hv, Prod.ext rfl htbl⟩

/-- Settles O50: the device identifier, the headers and the tables are read from the image's own bytes, and more fuel
changes nothing. -/
theorem unpackIgnoresTrailingBytes : Obligations.UnpackIgnoresTrailingBytes := by
  intro s t r extra h hr h0 hfits'
  obtain ⟨hc, rfl⟩ := exec_eq_next.mp h
  cases hr
  rw [fullReply_of_ne_setmode s (by decide : Instr.unpack ≠ .setmode), replyFor] at h0
  obtain ⟨hmode, hfits, hlen, dev, v, w, tbl, hdev, hv, hloop⟩ := unpackReply_of_status_zero h0
  have hlen' : s.slots.inBuf.length + 1 ≤ (s.slots.inBuf ++ extra).length + 1 := by
    rw [List.length_append]
    omega
  have hloop' := unpackLoop_append extra hc hloop hlen'
  have hdev' : imageDev (s.slots.inBuf ++ extra) s.layout = .ok dev := by
    rw [imageDev, Config.devidBytes, if_neg (by omega), slice_append extra hlen]
    rwa [imageDev, Config.devidBytes, if_neg (by omega)] at hdev
  have hfirst := exec_unpack_ready hmode hfits
  have hsecond := exec_unpack_ready (s := { s with slots := { s.slots with inBuf := s.slots.inBuf ++ extra } }) hmode
    hfits'
  rw [hdev, replyOf_ok, hv, replyOf_ok, hloop] at hfirst
  dsimp only at hsecond
  rw [hdev', replyOf_ok, hv, replyOf_ok, hloop'] at hsecond
  obtain ⟨-, hresp⟩ := (answer_eq_next _ _ _).mp (hfirst.symm.trans h)
  refine ⟨_, hsecond.trans (answer_of_configOk _ _ hc), ?_⟩
  rw [respond_resp]
  exact (congrArg State.resp hresp).symm

end Sys2Proof.Machine

/-! SUPPORT. Proofs about the upload flow (30_encoding R102, 70_reset R324): CHECK_VALID, PACK and SPLIT one after
another, each going on from an OK response. -/

namespace Sys2Proof.Machine

/-- The state an OK ending leaves. -/
def afterOk (s : State) (w : Nat) (r : Results) : State := { s with resp := some ⟨responseWord 0 0 w, r⟩ }

@[simp] theorem afterOk_cfg (s : State) (w : Nat) (r : Results) : (afterOk s w r).cfg = s.cfg := rfl
@[simp] theorem afterOk_layout (s : State) (w : Nat) (r : Results) : (afterOk s w r).layout = s.layout := rfl
@[simp] theorem lastOut_afterOk (s : State) (w : Nat) (r : Results) : lastOut (afterOk s w r) = r.out := rfl

/-- The host goes on after an OK ending, whatever its warnings (30_encoding R93, R102). -/
theorem ifOk_endsOk (s : State) (w : Nat) (r : Results) (k : State → Answer) :
    ifOk (endsOk s w r) k = k (afterOk s w r) := by
  have hstatus : Response.status ⟨responseWord 0 0 w, r⟩ = 0 := by
    rw [Response.status, responseWord, BitVec.toNat_ofNat]
    omega
  exact if_pos (decide_eq_true hstatus)

section
variable {s : State} (hc : ConfigOk s)
include hc

/-- CHECK_VALID, issued, of a legal table set that meets every condition (44_container_framer R245). -/
theorem issue_asmCheckValid {v : Variant} {ts : TableSet} (hlegal : TableSetLegal s.cfg v ts)
    (hrules : ∀ b ∈ ruleConditions s.cfg ts v, b = true) :
    ∃ sl, issue (asmCheckValid ts) s = endsOk { s with slots := sl } 0 Results.empty :=
  ⟨_, (issue_commandOf .checkValid _ s).trans
    (exec_checkValid_of_all (s := { s with slots := { Slots.empty with tables := ts } }) hc hlegal hrules)⟩

/-- PACK, issued, of a legal table set whose image fits (44_container_framer R215). -/
theorem issue_asmPack {v : Variant} {ts : TableSet} {ph : U64} (hmode : ModeSet s) (hlegal : TableSetLegal s.cfg v ts)
    (hph : ph.toNat < 2 ^ 32) (hfits : SizeFits s.cfg (imageLength s.cfg v ts)) :
    ∃ sl w, issue (asmPack ts ph) s =
      endsOk { s with slots := sl } w
        { Results.empty with out := imageLayout s.cfg v s.layout ts (BitVec.ofNat 32 ph.toNat) } :=
  ⟨_, _, (issue_commandOf .pack _ s).trans
    (exec_pack_of_fits (s := { s with slots := { Slots.empty with tables := ts, a0 := ph } }) hc hmode hph hlegal
      hfits)⟩

/-- SPLIT, issued, of a legal base and chunk size with room for the buffer (45_chunk_splitter R262). -/
theorem issue_asmSplit {B : Buffer} {base mx : U64} (hfits : SizeFits s.cfg B.length) (hbase : base.toNat < 2 ^ 21)
    (hpos : 0 < mx.toNat) (hmod : mx.toNat % 4 = 0) (htop : base.toNat + (B.length + 3) / 4 ≤ 2 ^ 21) :
    ∃ t, issue (asmSplit B base mx) s = .next t ∧ t.resp = some ⟨0, { Results.empty with
      chunks := (List.range (chunkCount B.length mx.toNat)).map (splitChunk B.length base.toNat mx.toNat) }⟩ :=
  ⟨_, (issue_commandOf .split _ s).trans
    (exec_split_of_splitF_ok (s := { s with slots := { Slots.empty with inBuf := B, a0 := base, a1 := mx } }) hc hfits
      (splitF_eq_closedForm hbase hpos hmod htop)), rfl⟩

end

/-- Settles O57: the rules hold, so CHECK_VALID ends with OK; PACK returns the image, a whole number of words; the
chunks of SPLIT cover it. -/
theorem prepareUploadSplitsThePackedImage : Obligations.PrepareUploadSplitsThePackedImage := by
  intro s v ts ph base mx hc hmode hlegal hrules hph hfits hpos hmod htop
  obtain ⟨hlen, hwords⟩ := length_imageLayout hc v s.layout hlegal (BitVec.ofNat 32 ph.toNat)
  have hmin : 16 ≤ imageLength s.cfg v ts := by
    rw [imageLength]
    omega
  obtain ⟨sl, hcheck⟩ := issue_asmCheckValid hc hlegal hrules
  obtain ⟨sl', w, hpack⟩ :=
    issue_asmPack (s := afterOk { s with slots := sl } 0 Results.empty) hc hmode hlegal hph hfits
  generalize himage : imageLayout s.cfg v s.layout ts (BitVec.ofNat 32 ph.toNat) = image at *
  obtain ⟨t, hsplit, hresp⟩ := issue_asmSplit (B := image)
    (s := afterOk { afterOk { s with slots := sl } 0 Results.empty with slots := sl' } w
      { Results.empty with out := image }) hc (base := base) (mx := mx) (hlen ▸ hfits) (by omega) hpos hmod (by omega)
  refine ⟨t, _, ?_, hresp, rfl, flatMap_chunkSlice_chunks image base.toNat hpos, len_of_mem_chunks hpos⟩
  rw [prepareUpload, hcheck, ifOk_endsOk, hpack, ifOk_endsOk]
  dsimp only [afterOk_cfg, afterOk_layout]
  rw [himage, lastOut_afterOk]
  exact hsplit

end Sys2Proof.Machine
